-- ==== Sys2Proof/Word.lean ====
section
/-! DEFINITION. The bit-vector widths EFX works on, and the small closed sets of names that both the commands and the
host interface use. -/

namespace Sys2Proof

/-- One byte of the input buffer (R13). -/
abbrev Byte := BitVec 8

/-- A register, a command word or the value of a host access: `REG_BITS = 32` (R7). -/
abbrev Word := BitVec 32

/-- A BUF offset inside a command word: 7 bits, 0 to 127 (R52). -/
abbrev Offset := BitVec 7

/-- A host offset from the block's base address: `HOST_ADDR_BITS = 8` (R7, R35). -/
abbrev HostOffset := BitVec 8

/-- The flag SVD_MARK sets, chosen by SEL (R57). -/
inductive Flag420 where
  /-- SEL = 0, "limited-to-420". -/
  | lim420
  /-- SEL = 1, "also-supports-420". -/
  | ycc420
  deriving DecidableEq, Repr

/-- The width of a host access. R37 admits 8-bit and 32-bit accesses and names the 16-bit one as outside the
interface. -/
inductive AccessWidth where
  | bits8
  | bits16
  | bits32
  deriving DecidableEq, Repr

end Sys2Proof
end

