-- ==== Sys2Proof/Config.lean ====
section
/-! DEFINITION. What is fixed for the machine: the sizes and tags of 00_scope.md, the open parameter EFX_BASE, and the
spec's default of the open parameter KNOWN_EXT_TAGS (whose value for a machine is held in State). -/

namespace Sys2Proof.Config

/-- The input buffer's size, `BUF_BYTES` (R1). -/
abbrev bufBytes : Nat := 128

/-- The size of a detailed-timing descriptor, `DTD_BYTES` (R2). -/
abbrev dtdBytes : Nat := 18

/-- The last offset at which a descriptor's window fits in BUF: 110 + 17 = 127 (R88, D19). -/
abbrev lastDtdOffset : Nat := 110

/-- The tag of a base block, `BASE_TAG` (R5). -/
abbrev baseTag : Byte := 0x00#8

/-- The tag of a CTA-861 extension block, `CTA_TAG` (R5). -/
abbrev ctaTag : Byte := 0x02#8

/-- The host offset of CMD, the one register the host may write (R15, R37). -/
abbrev cmdOffset : HostOffset := 0x80#8

/-- The default the spec takes for KNOWN_EXT_TAGS (R6); not the source's (D12). DESIGN CHOICE: `State.reset` holds it;
see notes/assumptions/5.md. -/
def defaultKnownExtTags : List Byte := [0x10#8, 0x40#8, 0x50#8, 0x60#8]

/-- `EFX_BASE`, the block's base address in the platform's address space (R36). Open: it has no body, so no proof can
depend on it, and no rule of EFX does. See notes/assumptions/7.md. -/
opaque efxBase : Nat

/-- The platform address of a host offset (R35, R36). The model's host accesses carry the offset alone. -/
def platformAddress (offset : HostOffset) : Nat := efxBase + offset.toNat

end Sys2Proof.Config
end

