-- ==== Sys2Proof/Syntax.lean ====
section
/-! DEFINITION. The commands of EFX-CMD v1, one constructor per row of spec/opcode_table.json (R50). Every field has the
width its format gives it (R49, R52 to R54, R57), so a term of `Instr` is exactly a word that decodes. -/

namespace Sys2Proof

/-- A command. Operand order is that of the assembler lines of R63. -/
inductive Instr where
  /-- `NOP` (R105). -/
  | nop
  /-- `EXTRACT off, shift, width` (R68). -/
  | extract (off : Offset) (shift : BitVec 3) (width : BitVec 4)
  /-- `CONCAT hoff, hshift, hwidth, loff, lshift, lwidth` (R70). -/
  | concat (hoff : Offset) (hshift : BitVec 3) (hwidth : BitVec 4)
      (loff : Offset) (lshift : BitVec 3) (lwidth : BitVec 4)
  /-- `WORD hoff, loff` (R72). -/
  | word (hoff loff : Offset)
  /-- `DWORD b3, b2, b1, b0` (R73). -/
  | dword (b3 b2 b1 b0 : Offset)
  /-- `CLASSIFY` (R77). -/
  | classify
  /-- `SVD_PARSE off` (R82). -/
  | svdParse (off : Offset)
  /-- `SVD_MARK flag, code` (R84). -/
  | svdMark (sel : Flag420) (code : BitVec 7)
  /-- `DTD_DECODE off` (R88). -/
  | dtdDecode (off : Offset)
  /-- `CLRSTAT` (R107). -/
  | clrstat
  deriving DecidableEq, Repr

end Sys2Proof
end

