-- ==== Sys2Proof/WellFormed.lean ====
section
/-! DEFINITION. Assembler lines with unbounded operands (R63, R64), and the check that every operand fits its field and
every pseudo-instruction's condition holds. Operands that fit but breach a command's rule (a width of 9, an offset of
111 for DTD_DECODE) are well-formed: they decode, and the command answers them with an error (R62). -/

namespace Sys2Proof

/-- One assembler line: a command of R63 or a pseudo-instruction of R64, its operands as written. -/
inductive Source where
  | nop
  | extract (off shift width : Nat)
  | concat (hoff hshift hwidth loff lshift lwidth : Nat)
  | word (hoff loff : Nat)
  | dword (b3 b2 b1 b0 : Nat)
  | classify
  | svdParse (off : Nat)
  | svdMark (sel : Flag420) (code : Nat)
  | dtdDecode (off : Nat)
  | clrstat
  | byte (off : Nat)
  | bit (off n : Nat)
  | nibhi (off : Nat)
  | niblo (off : Nat)
  | dbtag (off : Nat)
  | dblen (off : Nat)
  | wordle (off : Nat)
  | wordbe (off : Nat)
  | dwordle (off : Nat)
  deriving DecidableEq, Repr

/-- An offset operand fits its 7 bits (R52, R63: "an offset above 127"). -/
abbrev offsetFits (off : Nat) : Bool := decide (off ≤ 127)

/-- A shift operand fits its 3 bits (R53, R63: "a shift above 7"). -/
abbrev shiftFits (shift : Nat) : Bool := decide (shift ≤ 7)

/-- A width operand fits its 4 bits (R54, R63: "a width above 15"). -/
abbrev widthFits (width : Nat) : Bool := decide (width ≤ 15)

/-- A code operand fits its 7 bits (R57, R63: "a code above 127"). -/
abbrev codeFits (code : Nat) : Bool := decide (code ≤ 127)

/-- Every operand fits its field (R63) and the pseudo-instruction's condition holds (R64). -/
def Source.wellFormed : Source → Bool
  | .nop => true
  | .extract off shift width => offsetFits off && shiftFits shift && widthFits width
  | .concat hoff hshift hwidth loff lshift lwidth =>
    offsetFits hoff && shiftFits hshift && widthFits hwidth
      && offsetFits loff && shiftFits lshift && widthFits lwidth
  | .word hoff loff => offsetFits hoff && offsetFits loff
  | .dword b3 b2 b1 b0 => offsetFits b3 && offsetFits b2 && offsetFits b1 && offsetFits b0
  | .classify => true
  | .svdParse off => offsetFits off
  | .svdMark _ code => codeFits code
  | .dtdDecode off => offsetFits off
  | .clrstat => true
  | .byte off => offsetFits off
  | .bit off n => offsetFits off && decide (n ≤ 7)
  | .nibhi off => offsetFits off
  | .niblo off => offsetFits off
  | .dbtag off => offsetFits off
  | .dblen off => offsetFits off
  | .wordle off => decide (off ≤ 126)
  | .wordbe off => decide (off ≤ 126)
  | .dwordle off => decide (off ≤ 124)

/-- The line is a command of R63, not a pseudo-instruction of R64. -/
def Source.isCommand : Source → Bool
  | .nop | .extract _ _ _ | .concat _ _ _ _ _ _ | .word _ _ | .dword _ _ _ _ | .classify => true
  | .svdParse _ | .svdMark _ _ | .dtdDecode _ | .clrstat => true
  | .byte _ | .bit _ _ | .nibhi _ | .niblo _ | .dbtag _ | .dblen _ | .wordle _ | .wordbe _ | .dwordle _ => false

/-- The assembler line of a command (R63). -/
def Instr.source : Instr → Source
  | .nop => .nop
  | .extract off shift width => .extract off.toNat shift.toNat width.toNat
  | .concat hoff hshift hwidth loff lshift lwidth =>
    .concat hoff.toNat hshift.toNat hwidth.toNat loff.toNat lshift.toNat lwidth.toNat
  | .word hoff loff => .word hoff.toNat loff.toNat
  | .dword b3 b2 b1 b0 => .dword b3.toNat b2.toNat b1.toNat b0.toNat
  | .classify => .classify
  | .svdParse off => .svdParse off.toNat
  | .svdMark sel code => .svdMark sel code.toNat
  | .dtdDecode off => .dtdDecode off.toNat
  | .clrstat => .clrstat

/-- The commands of BFX (R67). -/
def Instr.isBfx : Instr → Bool
  | .extract _ _ _ | .concat _ _ _ _ _ _ | .word _ _ | .dword _ _ _ _ => true
  | .nop | .classify | .svdParse _ | .svdMark _ _ | .dtdDecode _ | .clrstat => false

/-- A command is well-formed when its assembler line is. Every command is, since its operands have their fields' widths
(Sys2Proof.Laws.Encoding states it per constructor). -/
abbrev Instr.wellFormed (i : Instr) : Bool := i.source.wellFormed

end Sys2Proof
end

