-- ==== Sys2Proof/Decode.lean ====
section
/-! DEFINITION. The decoder of R59, total on all 2^32 words and refusing by name; the encoder of R49 to R51; the
assembler of R63 and R64. -/

namespace Sys2Proof

/-- Why a word is illegal (R60). -/
inductive IllegalWord where
  /-- Opcodes 0x9 to 0xE (R61). -/
  | reservedOpcode
  /-- A nonzero reserved bit under an assigned opcode. -/
  | reservedBits
  deriving DecidableEq, Repr

/-- What a word decodes to (R59): a command, or ILLEGAL. -/
inductive Decoded where
  | command (i : Instr)
  | illegal (why : IllegalWord)
  deriving DecidableEq, Repr

/-- OPC, bits 31:28 of every command (R49). -/
def opcField (w : Word) : BitVec 4 := w.extractLsb' 28 4

/-- The flag a SEL bit selects (R57). -/
def flagOfSel (sel : Bool) : Flag420 := if sel then .ycc420 else .lim420

/-- SEL for a flag (R57). -/
def selOfFlag : Flag420 → BitVec 1
  | .lim420 => 0#1
  | .ycc420 => 1#1

/-- The command `i` when the word's reserved bits are zero, ILLEGAL otherwise. -/
def unlessReserved {n : Nat} (reserved : BitVec n) (i : Instr) : Decoded :=
  if reserved = 0 then .command i else .illegal .reservedBits

/-- The decode function of R59. -/
def decode (w : Word) : Decoded :=
  match (opcField w).toNat with
  | 0x0 => unlessReserved (w.extractLsb' 0 28) .nop
  | 0x1 => unlessReserved (w.extractLsb' 14 14)
      (.extract (w.extractLsb' 0 7) (w.extractLsb' 7 3) (w.extractLsb' 10 4))
  | 0x2 => .command (.concat (w.extractLsb' 0 7) (w.extractLsb' 7 3) (w.extractLsb' 10 4)
      (w.extractLsb' 14 7) (w.extractLsb' 21 3) (w.extractLsb' 24 4))
  | 0x3 => unlessReserved (w.extractLsb' 14 14) (.word (w.extractLsb' 0 7) (w.extractLsb' 7 7))
  | 0x4 => .command (.dword (w.extractLsb' 0 7) (w.extractLsb' 7 7) (w.extractLsb' 14 7) (w.extractLsb' 21 7))
  | 0x5 => unlessReserved (w.extractLsb' 0 28) .classify
  | 0x6 => unlessReserved (w.extractLsb' 7 21) (.svdParse (w.extractLsb' 0 7))
  | 0x7 => unlessReserved (w.extractLsb' 8 20) (.svdMark (flagOfSel (w.getLsbD 7)) (w.extractLsb' 0 7))
  | 0x8 => unlessReserved (w.extractLsb' 7 21) (.dtdDecode (w.extractLsb' 0 7))
  | 0xF => unlessReserved (w.extractLsb' 0 28) .clrstat
  | _ => .illegal .reservedOpcode

/-- The encoder: the bit layouts of R49 with the opcodes of R50, upper field first, every reserved bit 0 (R51). -/
def encode : Instr → Word
  | .nop => 0x0#4 ++ 0#28
  | .extract off shift width => 0x1#4 ++ 0#14 ++ width ++ shift ++ off
  | .concat hoff hshift hwidth loff lshift lwidth =>
    0x2#4 ++ lwidth ++ lshift ++ loff ++ hwidth ++ hshift ++ hoff
  | .word hoff loff => 0x3#4 ++ 0#14 ++ loff ++ hoff
  | .dword b3 b2 b1 b0 => 0x4#4 ++ b0 ++ b1 ++ b2 ++ b3
  | .classify => 0x5#4 ++ 0#28
  | .svdParse off => 0x6#4 ++ 0#21 ++ off
  | .svdMark sel code => 0x7#4 ++ 0#20 ++ selOfFlag sel ++ code
  | .dtdDecode off => 0x8#4 ++ 0#21 ++ off
  | .clrstat => 0xF#4 ++ 0#28

/-- The opcode of a command (R50). -/
def Instr.opcode : Instr → BitVec 4
  | .nop => 0x0
  | .extract _ _ _ => 0x1
  | .concat _ _ _ _ _ _ => 0x2
  | .word _ _ => 0x3
  | .dword _ _ _ _ => 0x4
  | .classify => 0x5
  | .svdParse _ => 0x6
  | .svdMark _ _ => 0x7
  | .dtdDecode _ => 0x8
  | .clrstat => 0xF

/-- The command of an assembler line whose operands fit: R63, and the expansions of R64. -/
def Source.expand : Source → Instr
  | .nop => .nop
  | .extract off shift width => .extract (.ofNat 7 off) (.ofNat 3 shift) (.ofNat 4 width)
  | .concat hoff hshift hwidth loff lshift lwidth =>
    .concat (.ofNat 7 hoff) (.ofNat 3 hshift) (.ofNat 4 hwidth) (.ofNat 7 loff) (.ofNat 3 lshift) (.ofNat 4 lwidth)
  | .word hoff loff => .word (.ofNat 7 hoff) (.ofNat 7 loff)
  | .dword b3 b2 b1 b0 => .dword (.ofNat 7 b3) (.ofNat 7 b2) (.ofNat 7 b1) (.ofNat 7 b0)
  | .classify => .classify
  | .svdParse off => .svdParse (.ofNat 7 off)
  | .svdMark sel code => .svdMark sel (.ofNat 7 code)
  | .dtdDecode off => .dtdDecode (.ofNat 7 off)
  | .clrstat => .clrstat
  | .byte off => .extract (.ofNat 7 off) 0 8
  | .bit off n => .extract (.ofNat 7 off) (.ofNat 3 n) 1
  | .nibhi off => .extract (.ofNat 7 off) 4 4
  | .niblo off => .extract (.ofNat 7 off) 0 4
  | .dbtag off => .extract (.ofNat 7 off) 5 3
  | .dblen off => .extract (.ofNat 7 off) 0 5
  | .wordle off => .word (.ofNat 7 (off + 1)) (.ofNat 7 off)
  | .wordbe off => .word (.ofNat 7 off) (.ofNat 7 (off + 1))
  | .dwordle off => .dword (.ofNat 7 (off + 3)) (.ofNat 7 (off + 2)) (.ofNat 7 (off + 1)) (.ofNat 7 off)

/-- Assemble one line: none where it is not well-formed, since an operand that does not fit "is an assembly error and
has no encoding" (R63). -/
def assemble (l : Source) : Option Instr := if l.wellFormed then some l.expand else none

/-- The word whose bits are those of a table row's number, bits at `nbits` and above zero. One word is one 32-bit CMD
write, so no byte order enters (R48). -/
def tableWord (nbits w : Nat) : Word := BitVec.ofNat 32 (w % 2 ^ nbits)

/-- What the decoder reads from an instruction whose bits are `w`, numbered as spec/opcode_table.json numbers them;
none where the word is illegal. -/
def decodeTableWord (nbits w : Nat) : Option Instr :=
  match decode (tableWord nbits w) with
  | .command i => some i
  | .illegal _ => none

end Sys2Proof
end

