-- ==== Sys2Proof/Machine/State.lean ====
section
/-! DEFINITION. The state of EFX (10_state.md), the events its one host and its reset input bring about, the reasons a
step can stop, and the state right after reset. A register with reserved bits is held as its fields; Registers.lean
gives the 32-bit word the host reads. -/

namespace Sys2Proof.Machine

/-- The input buffer: the bytes the host has written since reset, by offset, offsets strictly rising. A byte is listed
exactly when its bit of the ghost mask WRITTEN is 1 (R13, R14), so an unlisted byte has no value to read. -/
abbrev Memory := List Host.Cell

/-- The errors EFX raises (R18, R110). Codes 1, 2, 4 and 7 belong to surrounding software and are never raised. -/
inductive Error where
  | unsupportedBlock
  | invalidPixelClock
  | invalidSyncType
  | illegalCommand
  | fieldContract
  | outOfRange
  deriving DecidableEq, Repr

/-- STATUS (R16). `sticky` is STATUS[26:17]: its bit `k - 1` is `STICKY[k]`. -/
structure Status where
  err : BitVec 4
  sticky : BitVec 10
  deriving DecidableEq, Repr

/-- The four classes CLS decides between (R76). -/
inductive BlockClass where
  | base
  | cta
  | otherKnown
  | unsupported
  deriving DecidableEq, Repr

/-- CLS_RES (R21). -/
structure ClsRes where
  cls : BlockClass
  tag : Byte
  valid : Bool
  deriving DecidableEq, Repr

/-- SVD_RES, the one SVD record EFX holds (R22, R81). -/
structure SvdRes where
  code : BitVec 7
  native : Bool
  lim420 : Bool
  ycc420 : Bool
  valid : Bool
  deriving DecidableEq, Repr

/-- DTD_H0, horizontal active and blanking pixels (R24). -/
structure DtdH0 where
  hactive : BitVec 12
  hblank : BitVec 12
  deriving DecidableEq, Repr

/-- DTD_H1, horizontal sync offset and width (R25). -/
structure DtdH1 where
  hsoff : BitVec 10
  hsw : BitVec 10
  deriving DecidableEq, Repr

/-- DTD_V0, vertical active and blanking lines (R26). -/
structure DtdV0 where
  vactive : BitVec 12
  vblank : BitVec 12
  deriving DecidableEq, Repr

/-- DTD_V1, vertical sync offset and width (R27). -/
structure DtdV1 where
  vsoff : BitVec 6
  vsw : BitVec 6
  deriving DecidableEq, Repr

/-- DTD_IMG, image size in millimetres (R28). -/
structure DtdImg where
  himg : BitVec 12
  vimg : BitVec 12
  deriving DecidableEq, Repr

/-- DTD_FLAGS (R29). PREP is hardwired to 0 and so has no storage (R99). -/
structure DtdFlags where
  interlaced : Bool
  vsyncPos : Bool
  hsyncPos : Bool
  valid : Bool
  deriving DecidableEq, Repr

/-- One host access (R37): a read, or a write of a value of which a narrow access uses the low bits (R38). -/
inductive HostAccess where
  | read (width : AccessWidth) (offset : HostOffset)
  | write (width : AccessWidth) (offset : HostOffset) (value : Word)
  deriving DecidableEq, Repr

/-- What can happen to EFX from outside: a host access (R34), or its one hardware reset (R127). -/
inductive HostEvent where
  | access (a : HostAccess)
  | reset
  deriving DecidableEq, Repr

/-- The reason a step faults. -/
inductive Fault where
  /-- Raised by a command or a host read that reads a BUF byte the host has not written since reset (R14, R39, R122).
  Safe: the hardware returns some byte, which no rule gives. -/
  | unwrittenBuffer
  deriving DecidableEq, Repr

/-- The reason a step is refused. -/
inductive Refusal where
  /-- Raised by an arm of `exec` whose command has no meaning yet. Safe. No arm raises it: every command has one. -/
  | notModelled (mnemonic : String)
  /-- Raised by a host access outside R37's table (R123). Safe: the hardware's response is the open parameter
  UNMAPPED_ACCESS (R8). -/
  | hostAccessOutsideInterface
  deriving DecidableEq, Repr

/-- The whole state. -/
structure State where
  /-- BUF with its ghost mask WRITTEN (R13, R14). -/
  buf : Memory
  /-- CMD, the last word the host wrote to it (R15). -/
  cmd : Word
  /-- STATUS (R16). -/
  status : Status
  /-- BFX_RES (R20). -/
  bfxRes : Word
  /-- CLS_RES (R21). -/
  clsRes : ClsRes
  /-- SVD_RES (R22). -/
  svdRes : SvdRes
  /-- DTD_PCLK, the pixel clock in units of 10 kHz (R23). -/
  dtdPclk : BitVec 16
  /-- DTD_H0 (R24). -/
  dtdH0 : DtdH0
  /-- DTD_H1 (R25). -/
  dtdH1 : DtdH1
  /-- DTD_V0 (R26). -/
  dtdV0 : DtdV0
  /-- DTD_V1 (R27). -/
  dtdV1 : DtdV1
  /-- DTD_IMG (R28). -/
  dtdImg : DtdImg
  /-- DTD_FLAGS (R29). -/
  dtdFlags : DtdFlags
  /-- The parameter KNOWN_EXT_TAGS of this machine (R6, R80); no step changes it. DESIGN CHOICE, entry 5. -/
  knownExtTags : List Byte
  /-- The model's own: the events still to come, in the host's program order (R44). DESIGN CHOICE, entry 1. -/
  pending : List HostEvent
  /-- The model's own: the value the host's latest read returned. DESIGN CHOICE, entry 2. -/
  lastRead : Option Word
  deriving DecidableEq, Repr

/-- The machine right after reset: every register 0 (R125), no BUF byte written (R126), nothing pending (R129). -/
def State.reset : State where
  buf := []
  cmd := 0
  status := ⟨0, 0⟩
  bfxRes := 0
  clsRes := ⟨.base, 0, false⟩
  svdRes := ⟨0, false, false, false, false⟩
  dtdPclk := 0
  dtdH0 := ⟨0, 0⟩
  dtdH1 := ⟨0, 0⟩
  dtdV0 := ⟨0, 0⟩
  dtdV1 := ⟨0, 0⟩
  dtdImg := ⟨0, 0⟩
  dtdFlags := ⟨false, false, false, false⟩
  knownExtTags := Config.defaultKnownExtTags
  pending := []
  lastRead := none

end Sys2Proof.Machine
end

