-- ==== Sys2Proof/Machine/Flags.lean ====
section
/-! DEFINITION. How STATUS changes: the error codes of R18 and the two ways a command ends (R113). -/

namespace Sys2Proof.Machine

/-- The code of an error (R18). -/
def Error.code : Error → BitVec 4
  | .unsupportedBlock => 3
  | .invalidPixelClock => 5
  | .invalidSyncType => 6
  | .illegalCommand => 8
  | .fieldContract => 9
  | .outOfRange => 10

/-- `STICKY[k]`, for `1 <= k <= 10`; no other code has a sticky bit (R16). -/
def Status.stickyBit (st : Status) (k : Nat) : Bool := decide (1 ≤ k) && st.sticky.getLsbD (k - 1)

/-- STATUS after a command that completes: ERR is 0, STICKY as before (R113). -/
def Status.completed (st : Status) : Status := { st with err := 0 }

/-- STATUS after a command that raises `e`: ERR is its code, its STICKY bit is set, the others stay (R113). -/
def Status.raised (e : Error) (st : Status) : Status where
  err := e.code
  sticky := st.sticky ||| (1#10 <<< (e.code.toNat - 1))

/-- STATUS with every STICKY bit cleared (R107). -/
def Status.stickyCleared (st : Status) : Status := { st with sticky := 0 }

end Sys2Proof.Machine
end

