-- ==== Sys2Proof/Machine/Operands.lean ====
section
/-! DEFINITION. The operand forms of the commands: the bit field of one byte and its contract (R4, R69), and the joins of
bytes (R70, R72, R73). -/

namespace Sys2Proof.Machine

/-- `mask(w) = 2^w - 1`, for `0 <= w <= 8` (R10). -/
def mask (w : Nat) : Byte := BitVec.ofNat 8 (2 ^ w - 1)

/-- The field contract: `width <= 8` and `shift + width <= 8`, on unbounded integers (R69, R74). -/
def fieldLegal (shift : BitVec 3) (width : BitVec 4) : Bool :=
  decide (width.toNat ≤ 8) && decide (shift.toNat + width.toNat ≤ 8)

/-- `extract_bits`: the field of `b` whose least significant bit is bit `shift` (R68). -/
def extractBits (b : Byte) (shift : BitVec 3) (width : BitVec 4) : Byte :=
  (b >>> shift.toNat) &&& mask width.toNat

/-- `concat_bits`: `(hi << lwidth) | lo`, zero-extended (R70). -/
def concatBits (hi : Byte) (hshift : BitVec 3) (hwidth : BitVec 4) (lo : Byte) (lshift : BitVec 3) (lwidth : BitVec 4) :
    Word :=
  ((extractBits hi hshift hwidth).setWidth 32 <<< lwidth.toNat) ||| (extractBits lo lshift lwidth).setWidth 32

/-- `bytes_to_word` (R72), zero-extended to 32 bits. -/
def bytesToWord (hi lo : Byte) : Word := 0#16 ++ hi ++ lo

/-- `bytes_to_dword` (R73). Also the order of a host 32-bit BUF access, least significant byte at the lowest offset
(R40). -/
def bytesToDword (b3 b2 b1 b0 : Byte) : Word := b3 ++ b2 ++ b1 ++ b0

end Sys2Proof.Machine
end

