-- ==== Sys2Proof/Machine/Registers.lean ====
section
/-! DEFINITION. The 32-bit word of each register, as the host reads it: fields in their places, every reserved bit 0
(R15, R16, R20 to R29), and the register map (10_state.md section 1). -/

namespace Sys2Proof.Machine

/-- STATUS (R16): ERR in 3:0, STICKY in 26:17. -/
def Status.word (r : Status) : Word := 0#5 ++ r.sticky ++ 0#13 ++ r.err

/-- The class numbers (R76). -/
def BlockClass.code : BlockClass → BitVec 2
  | .base => 0
  | .cta => 1
  | .otherKnown => 2
  | .unsupported => 3

/-- CLS_RES (R21): CLASS in 1:0, TAG in 15:8, VALID in 31. -/
def ClsRes.word (r : ClsRes) : Word := BitVec.ofBool r.valid ++ 0#15 ++ r.tag ++ 0#6 ++ r.cls.code

/-- SVD_RES (R22): CODE in 6:0, NATIVE in 7, LIM420 in 8, YCC420 in 9, VALID in 31. -/
def SvdRes.word (r : SvdRes) : Word :=
  BitVec.ofBool r.valid ++ 0#21 ++ BitVec.ofBool r.ycc420 ++ BitVec.ofBool r.lim420 ++ BitVec.ofBool r.native ++ r.code

/-- DTD_PCLK (R23): PCLK in 15:0. -/
def dtdPclkWord (pclk : BitVec 16) : Word := 0#16 ++ pclk

/-- DTD_H0 (R24): HACTIVE in 11:0, HBLANK in 27:16. -/
def DtdH0.word (r : DtdH0) : Word := 0#4 ++ r.hblank ++ 0#4 ++ r.hactive

/-- DTD_H1 (R25): HSOFF in 9:0, HSW in 25:16. -/
def DtdH1.word (r : DtdH1) : Word := 0#6 ++ r.hsw ++ 0#6 ++ r.hsoff

/-- DTD_V0 (R26): VACTIVE in 11:0, VBLANK in 27:16. -/
def DtdV0.word (r : DtdV0) : Word := 0#4 ++ r.vblank ++ 0#4 ++ r.vactive

/-- DTD_V1 (R27): VSOFF in 5:0, VSW in 21:16. -/
def DtdV1.word (r : DtdV1) : Word := 0#10 ++ r.vsw ++ 0#10 ++ r.vsoff

/-- DTD_IMG (R28): HIMG in 11:0, VIMG in 27:16. -/
def DtdImg.word (r : DtdImg) : Word := 0#4 ++ r.vimg ++ 0#4 ++ r.himg

/-- DTD_FLAGS (R29): INTERLACED in 0, VSYNC_POS in 1, HSYNC_POS in 2, PREP in 11:8 hardwired to 0 (R99), VALID in 31. -/
def DtdFlags.word (r : DtdFlags) : Word :=
  BitVec.ofBool r.valid ++ 0#19 ++ 0#4 ++ 0#5 ++ BitVec.ofBool r.hsyncPos ++ BitVec.ofBool r.vsyncPos
    ++ BitVec.ofBool r.interlaced

/-- The register at a host offset; none where the map has no register (10_state.md section 1, R35). -/
def registerWord (s : State) (offset : HostOffset) : Option Word :=
  match offset.toNat with
  | 0x80 => some s.cmd
  | 0x84 => some s.status.word
  | 0x88 => some s.bfxRes
  | 0x8C => some s.clsRes.word
  | 0x90 => some s.svdRes.word
  | 0x94 => some (dtdPclkWord s.dtdPclk)
  | 0x98 => some s.dtdH0.word
  | 0x9C => some s.dtdH1.word
  | 0xA0 => some s.dtdV0.word
  | 0xA4 => some s.dtdV1.word
  | 0xA8 => some s.dtdImg.word
  | 0xAC => some s.dtdFlags.word
  | _ => none

end Sys2Proof.Machine
end

