-- ==== Sys2Proof/Machine/Ops.lean ====
section
/-! DEFINITION. The named operations over the buffer and the registers, and the two ways a command ends. Raising an error
is EFX's whole form of taking an exception (R109, R113): nothing is saved, no handler exists and there is no return
(R116, R117). -/

namespace Sys2Proof.Machine

/-- The outcome of a command or a host access. -/
abbrev Result := Host.Outcome State Fault Refusal

/-- `BUF[a]`, where the host has written it since reset (R13, R14). -/
def Memory.read : Memory → Nat → Option Byte
  | [], _ => none
  | (x, b) :: rest, a => if x = a then some b else Memory.read rest a

/-- `BUF[a] <- v` and `WRITTEN[a] <- 1` (R38), keeping the offsets strictly rising. -/
def Memory.write : Memory → Nat → Byte → Memory
  | [], a, v => [(a, v)]
  | (x, b) :: rest, a, v =>
    if a < x then (a, v) :: (x, b) :: rest
    else if a = x then (a, v) :: rest
    else (x, b) :: Memory.write rest a v

/-- `WRITTEN[a]` (R14). -/
def Memory.written (m : Memory) (a : Nat) : Bool := (m.read a).isSome

/-- Every listed offset lies above `a`, and the list rises strictly. -/
def Memory.risesFrom : Memory → Nat → Bool
  | [], _ => true
  | (x, _) :: rest, a => decide (a < x) && Memory.risesFrom rest x

/-- The list rises strictly. -/
def Memory.rises : Memory → Bool
  | [] => true
  | (x, _) :: rest => Memory.risesFrom rest x

/-- The canonical form: offsets strictly rising and inside BUF (R13). An unlisted offset has no value to read, so no
entry can equal one. -/
def Memory.wf (m : Memory) : Bool := m.rises && m.all fun c => decide (c.1 < Config.bufBytes)

/-- Read `BUF[a]` and go on with it; the model fault UnwrittenBuffer where it is unwritten (R14, R122). -/
def withByte (s : State) (a : Nat) (k : Byte → Result) : Result :=
  match s.buf.read a with
  | some b => k b
  | none => .fault .unwrittenBuffer

/-- Read the 18 bytes `d[0..17] = BUF[off..off+17]`, all of them, and go on (R87, R88). -/
def withDescriptor (s : State) (off : Nat) (k : (Fin 18 → Byte) → Result) : Result :=
  if h : ∀ i : Fin 18, (s.buf.read (off + i.val)).isSome then
    k fun i => (s.buf.read (off + i.val)).get (h i)
  else .fault .unwrittenBuffer

/-- `complete`: the command ends without error, `STATUS.ERR <- 0` (R10, R113). -/
def complete (s : State) : State := { s with status := s.status.completed }

/-- `raise E`: the command ends with error `E` in STATUS; what it wrote before stands (R10, R113). -/
def raise (e : Error) (s : State) : State := { s with status := s.status.raised e }

/-- `DTD_FLAGS.VALID <- 0`, the other fields unchanged (R88, R101). -/
def invalidateDtd (s : State) : State := { s with dtdFlags := { s.dtdFlags with valid := false } }

/-- The hardware reset: every register 0 and every BUF byte unwritten (R125, R126). The parameter, the events still to
come and what the host has read are not EFX's registers and stay. -/
def hardwareReset (s : State) : State :=
  { State.reset with knownExtTags := s.knownExtTags, pending := s.pending, lastRead := s.lastRead }

end Sys2Proof.Machine
end

