-- ==== Sys2Proof/Machine/Bfx.lean ====
section
/-! DEFINITION. BFX, the bit-field extractor: EXTRACT, CONCAT, WORD and DWORD (41_bitfield.md). -/

namespace Sys2Proof.Machine

/-- `BFX_RES <- v; complete` (R20). -/
def finishBfx (v : Word) (s : State) : Result := .next (complete { s with bfxRes := v })

/-- EXTRACT (R68): the contract is checked before BUF is read (R69). -/
def execExtract (off : Offset) (shift : BitVec 3) (width : BitVec 4) (s : State) : Result :=
  if fieldLegal shift width then
    withByte s off.toNat fun b => finishBfx ((extractBits b shift width).setWidth 32) s
  else .next (raise .fieldContract s)

/-- CONCAT (R70): both contracts are checked before BUF is read (R69). -/
def execConcat (hoff : Offset) (hshift : BitVec 3) (hwidth : BitVec 4) (loff : Offset) (lshift : BitVec 3)
    (lwidth : BitVec 4) (s : State) : Result :=
  if !fieldLegal hshift hwidth then .next (raise .fieldContract s)
  else if !fieldLegal lshift lwidth then .next (raise .fieldContract s)
  else
    withByte s hoff.toNat fun hi =>
    withByte s loff.toNat fun lo =>
    finishBfx (concatBits hi hshift hwidth lo lshift lwidth) s

/-- WORD (R72). -/
def execWord (hoff loff : Offset) (s : State) : Result :=
  withByte s hoff.toNat fun hi =>
  withByte s loff.toNat fun lo =>
  finishBfx (bytesToWord hi lo) s

/-- DWORD (R73). -/
def execDword (b3 b2 b1 b0 : Offset) (s : State) : Result :=
  withByte s b3.toNat fun v3 =>
  withByte s b2.toNat fun v2 =>
  withByte s b1.toNat fun v1 =>
  withByte s b0.toNat fun v0 =>
  finishBfx (bytesToDword v3 v2 v1 v0) s

end Sys2Proof.Machine
end

