-- ==== Sys2Proof/Machine/Cls.lean ====
section
/-! DEFINITION. CLS, the block classifier: CLASSIFY (42_classifier.md). -/

namespace Sys2Proof.Machine

/-- The class of a tag byte, under a set of other known extension tags (R76, R77, R80). -/
def classOf (known : List Byte) (tag : Byte) : BlockClass :=
  if tag = Config.baseTag then .base
  else if tag = Config.ctaTag then .cta
  else if known.contains tag then .otherKnown
  else .unsupported

/-- CLASSIFY (R77): CLS_RES is written whether or not UnsupportedBlock is raised (R78). -/
def execClassify (s : State) : Result :=
  withByte s 0 fun tag =>
    let cls := classOf s.knownExtTags tag
    let s' := { s with clsRes := ⟨cls, tag, true⟩ }
    if cls = .unsupported then .next (raise .unsupportedBlock s') else .next (complete s')

end Sys2Proof.Machine
end

