-- ==== Sys2Proof/Machine/Control.lean ====
section
/-! DEFINITION. The control commands NOP and CLRSTAT (45_control.md). -/

namespace Sys2Proof.Machine

/-- NOP (R105): it completes, which clears STATUS.ERR and no STICKY bit (R106). -/
def execNop (s : State) : Result := .next (complete s)

/-- CLRSTAT (R107): `STATUS.STICKY <- 0`, then `complete`. -/
def execClrstat (s : State) : Result := .next (complete { s with status := s.status.stickyCleared })

end Sys2Proof.Machine
end

