-- ==== Sys2Proof/Machine/Dtd.lean ====
section
/-! DEFINITION. DTD, the detailed-timing decoder: DTD_DECODE (44_dtd.md). The byte and bit positions are those of R89. -/

namespace Sys2Proof.Machine

/-- The pixel-clock word, little-endian in bytes 0 and 1 (R90). -/
def pixelClock (d : Fin 18 → Byte) : BitVec 16 := d 1 ++ d 0

/-- The sync-type check: "digital signal" (bit 4) and "separate sync" (bit 3) of byte 17 are both 1 (R96). -/
def syncTypeLegal (d : Fin 18 → Byte) : Bool := (d 17).getLsbD 4 && (d 17).getLsbD 3

/-- The seven DTD result registers of a descriptor, written together (R30, R88, R91 to R97). Bytes 15 and 16 and bits 6,
5 and 0 of byte 17 are not decoded (R100). -/
def writeTiming (d : Fin 18 → Byte) (s : State) : State :=
  { s with
    dtdPclk := pixelClock d
    dtdH0 := { hactive := (d 4).extractLsb' 4 4 ++ d 2, hblank := (d 4).extractLsb' 0 4 ++ d 3 }
    dtdH1 := { hsoff := (d 11).extractLsb' 6 2 ++ d 8, hsw := (d 11).extractLsb' 4 2 ++ d 9 }
    dtdV0 := { vactive := (d 7).extractLsb' 4 4 ++ d 5, vblank := (d 7).extractLsb' 0 4 ++ d 6 }
    dtdV1 := { vsoff := (d 11).extractLsb' 2 2 ++ (d 10).extractLsb' 4 4,
               vsw := (d 11).extractLsb' 0 2 ++ (d 10).extractLsb' 0 4 }
    dtdImg := { himg := (d 14).extractLsb' 4 4 ++ d 12, vimg := (d 14).extractLsb' 0 4 ++ d 13 }
    dtdFlags := { interlaced := (d 17).getLsbD 7, vsyncPos := (d 17).getLsbD 2, hsyncPos := (d 17).getLsbD 1,
                  valid := true } }

/-- A DTD_DECODE that fails: `DTD_FLAGS.VALID <- 0; raise E`, and no other result field changes (R101). -/
def failDtd (e : Error) (s : State) : Result := .next (raise e (invalidateDtd s))

/-- DTD_DECODE (R88), its checks in the order of R98: the window before any read, then the pixel clock, then the sync
type. -/
def execDtdDecode (off : Offset) (s : State) : Result :=
  if off.toNat > Config.lastDtdOffset then failDtd .outOfRange s
  else
    withDescriptor s off.toNat fun d =>
      if pixelClock d = 0 then failDtd .invalidPixelClock s
      else if !syncTypeLegal d then failDtd .invalidSyncType s
      else .next (complete (writeTiming d s))

end Sys2Proof.Machine
end

