-- ==== Sys2Proof/Machine/Svd.lean ====
section
/-! DEFINITION. SVD, the short-video-descriptor parser: SVD_PARSE and SVD_MARK (43_svd.md). -/

namespace Sys2Proof.Machine

/-- The record of one SVD byte: CODE in bits 6:0, NATIVE in bit 7, both 420 flags 0 (R82, R83). -/
def parseSvd (b : Byte) : SvdRes where
  code := b.extractLsb' 0 7
  native := b.getLsbD 7
  lim420 := false
  ycc420 := false
  valid := true

/-- SVD_PARSE (R82). -/
def execSvdParse (off : Offset) (s : State) : Result :=
  withByte s off.toNat fun b => .next (complete { s with svdRes := parseSvd b })

/-- Set one 420 flag of a valid record whose CODE matches; otherwise the record as it is (R84, R85). -/
def markSvd (sel : Flag420) (code : BitVec 7) (r : SvdRes) : SvdRes :=
  if r.valid && r.code == code then
    match sel with
    | .lim420 => { r with lim420 := true }
    | .ycc420 => { r with ycc420 := true }
  else r

/-- SVD_MARK (R84). -/
def execSvdMark (sel : Flag420) (code : BitVec 7) (s : State) : Result :=
  .next (complete { s with svdRes := markSvd sel code s.svdRes })

end Sys2Proof.Machine
end

