-- ==== Sys2Proof/Machine/Dispatch.lean ====
section
/-! DEFINITION. The dispatch: one arm per command, each one direct call of its meaning (R50). -/

namespace Sys2Proof.Machine

/-- What a command does to the state; CMD already holds its word (R15). -/
def exec (i : Instr) (s : State) : Host.Outcome State Fault Refusal :=
  match i with
  | .nop => Sys2Proof.Machine.execNop s
  | .extract off shift width => Sys2Proof.Machine.execExtract off shift width s
  | .concat hoff hshift hwidth loff lshift lwidth => Sys2Proof.Machine.execConcat hoff hshift hwidth loff lshift lwidth s
  | .word hoff loff => Sys2Proof.Machine.execWord hoff loff s
  | .dword b3 b2 b1 b0 => Sys2Proof.Machine.execDword b3 b2 b1 b0 s
  | .classify => Sys2Proof.Machine.execClassify s
  | .svdParse off => Sys2Proof.Machine.execSvdParse off s
  | .svdMark sel code => Sys2Proof.Machine.execSvdMark sel code s
  | .dtdDecode off => Sys2Proof.Machine.execDtdDecode off s
  | .clrstat => Sys2Proof.Machine.execClrstat s

end Sys2Proof.Machine
end

