-- ==== Sys2Proof/Machine/Access.lean ====
section
/-! DEFINITION. What an event from outside does: the admitted host accesses of R37 to R40, the CMD write that runs a
command (R15, R59, R60), and the reset input (R127). Beside them the host statements of R65. -/

namespace Sys2Proof.Machine

/-- An access outside R37's table (R123). -/
def refuseAccess : Result := .refused .hostAccessOutsideInterface

/-- A host read returns `v`; nothing of EFX changes (R41). -/
def answerRead (v : Word) (s : State) : Result := .next { s with lastRead := some v }

/-- A host read of `width` at `offset` (R37, R39, R40). -/
def hostRead (width : AccessWidth) (offset : HostOffset) (s : State) : Result :=
  let a := offset.toNat
  match width with
  | .bits8 =>
    if a < Config.bufBytes then withByte s a fun b => answerRead (b.setWidth 32) s else refuseAccess
  | .bits16 => refuseAccess
  | .bits32 =>
    if a % 4 ≠ 0 then refuseAccess
    else if a < Config.bufBytes then
      withByte s a fun b0 =>
      withByte s (a + 1) fun b1 =>
      withByte s (a + 2) fun b2 =>
      withByte s (a + 3) fun b3 =>
      answerRead (bytesToDword b3 b2 b1 b0) s
    else
      match registerWord s offset with
      | some v => answerRead v s
      | none => refuseAccess

/-- A write of a command word to CMD: the word is stored and executed in the same step (R15); a word that decodes to no
command raises IllegalCommand (R60, R111). -/
def runCommandWord (w : Word) (s : State) : Result :=
  match decode w with
  | .command i => exec i { s with cmd := w }
  | .illegal _ => .next (raise .illegalCommand { s with cmd := w })

/-- A 32-bit write to BUF, little-endian (R40). -/
def writeBufWord (a : Nat) (v : Word) (m : Memory) : Memory :=
  (((m.write a (v.extractLsb' 0 8)).write (a + 1) (v.extractLsb' 8 8)).write (a + 2) (v.extractLsb' 16 8)).write
    (a + 3) (v.extractLsb' 24 8)

/-- A host write of `value` at `offset` (R37, R38, R40). -/
def hostWrite (width : AccessWidth) (offset : HostOffset) (value : Word) (s : State) : Result :=
  let a := offset.toNat
  match width with
  | .bits8 =>
    if a < Config.bufBytes then .next { s with buf := s.buf.write a (value.extractLsb' 0 8) } else refuseAccess
  | .bits16 => refuseAccess
  | .bits32 =>
    if a % 4 ≠ 0 then refuseAccess
    else if a < Config.bufBytes then .next { s with buf := writeBufWord a value s.buf }
    else if offset = Config.cmdOffset then runCommandWord value s
    else refuseAccess

/-- One event. -/
def perform (e : HostEvent) (s : State) : Result :=
  match e with
  | .access (.read width offset) => hostRead width offset s
  | .access (.write width offset value) => hostWrite width offset value s
  | .reset => .next (hardwareReset s)

/-- The next event still to come happens; with none, EFX waits and its registers hold their values (R121, R129). -/
def advance (s : State) : Result :=
  match s.pending with
  | [] => .next s
  | e :: rest => perform e { s with pending := rest }

/-- The CMD write of a command word. -/
def cmdWrite (w : Word) : HostEvent := .access (.write .bits32 Config.cmdOffset w)

/-- `wb a, v` (R65): 8-bit write, `a <= 0x7F`. DESIGN CHOICE, entry 17: outside R65's bounds there is no statement. -/
def stmtWb (a : Nat) (v : Byte) : Option HostEvent :=
  if a ≤ 0x7F then some (.access (.write .bits8 (.ofNat 8 a) (v.setWidth 32))) else none

/-- `ww a, v` (R65): 32-bit write, `a` a multiple of 4, `a <= 0x7C`. DESIGN CHOICE, entry 17: outside R65's bounds, as at
CMD, there is no statement. -/
def stmtWw (a : Nat) (v : Word) : Option HostEvent :=
  if a ≤ 0x7C ∧ a % 4 = 0 then some (.access (.write .bits32 (.ofNat 8 a) v)) else none

/-- `cmd <command>` (R65): the write of a command's encoding to CMD. -/
def stmtCmd (i : Instr) : HostEvent := cmdWrite (encode i)

/-- `rd a` (R65): 32-bit read. DESIGN CHOICE, entry 17: R65 bounds it by nothing, so every host offset (R7) is a statement,
refused where R37 has no such read, and a number that is no host offset is no statement. -/
def stmtRd (a : Nat) : Option HostEvent :=
  if a ≤ 0xFF then some (.access (.read .bits32 (.ofNat 8 a))) else none

/-- `rdb a` (R65): 8-bit read, `a <= 0x7F`. DESIGN CHOICE, entry 17: outside R65's bound there is no statement. -/
def stmtRdb (a : Nat) : Option HostEvent :=
  if a ≤ 0x7F then some (.access (.read .bits8 (.ofNat 8 a))) else none

/-- `bytes a: b0 b1 ...` (R65): `wb a, b0`, `wb a+1, b1`, and so on. DESIGN CHOICE, entry 17: where one of these is no
statement, neither is the line. -/
def stmtBytes : Nat → List Byte → Option (List HostEvent)
  | _, [] => some []
  | a, b :: rest =>
    match stmtWb a b, stmtBytes (a + 1) rest with
    | some e, some es => some (e :: es)
    | _, _ => none

end Sys2Proof.Machine
end

