-- ==== Sys2Proof/Machine/Step.lean ====
section
/-! DEFINITION. One step of the machine: one host access with the command it starts, one reset, or waiting (R12, R41). -/

namespace Sys2Proof.Machine

/-- The step. -/
def step (s : State) : Host.Outcome State Fault Refusal := advance s

/-- `s` with a command word where `step` takes its next command: as a CMD write in front of the events still to come
(R15, R32). Bits at `nbits` and above are zero. -/
def State.withFetchWord (s : State) (nbits w : Nat) : State :=
  { s with pending := cmdWrite (tableWord nbits w) :: s.pending }

end Sys2Proof.Machine
end

