-- ==== Sys2Proof/Safety.lean ====
section
/-! DEFINITION. What the claims are stated in: the BUF bytes a command reads, the admitted host accesses, the illegal
words by their bits, the error codes a command word can leave, and the invariant of the machine. -/

namespace Sys2Proof.Machine

/-- The BUF offsets a command reads (R42): none where its contract or its window fails first (R69, R88). -/
def commandReads : Instr → List Nat
  | .nop => []
  | .extract off shift width => if fieldLegal shift width then [off.toNat] else []
  | .concat hoff hshift hwidth loff lshift lwidth =>
    if fieldLegal hshift hwidth && fieldLegal lshift lwidth then [hoff.toNat, loff.toNat] else []
  | .word hoff loff => [hoff.toNat, loff.toNat]
  | .dword b3 b2 b1 b0 => [b3.toNat, b2.toNat, b1.toNat, b0.toNat]
  | .classify => [0]
  | .svdParse off => [off.toNat]
  | .svdMark _ _ => []
  | .dtdDecode off => if off.toNat ≤ Config.lastDtdOffset then (List.range Config.dtdBytes).map (off.toNat + ·) else []
  | .clrstat => []

/-- `CONCAT hoff, hshift, hwidth, loff, lshift, lwidth` completes at `s` with `v` in BFX_RES (R70). -/
def ConcatGives (s : State) (hoff : Offset) (hshift : BitVec 3) (hwidth : BitVec 4) (loff : Offset) (lshift : BitVec 3)
    (lwidth : BitVec 4) (v : Word) : Prop :=
  exec (.concat hoff hshift hwidth loff lshift lwidth) s = .next (complete { s with bfxRes := v })

/-- The 18 bytes of BUF from `off` are written and are `d` (R87). -/
def DescriptorAt (s : State) (off : Offset) (d : Fin 18 → Byte) : Prop :=
  ∀ i : Fin 18, s.buf.read (off.toNat + i.val) = some (d i)

/-- The admitted host accesses, row by row of R37's table. -/
def admitted : HostAccess → Bool
  | .read .bits8 o => decide (o.toNat ≤ 0x7F)
  | .write .bits8 o _ => decide (o.toNat ≤ 0x7F)
  | .read .bits32 o => decide (o.toNat % 4 = 0) && decide (o.toNat ≤ 0xAC)
  | .write .bits32 o _ => decide (o.toNat % 4 = 0) && decide (o.toNat ≤ 0x7C) || decide (o.toNat = 0x80)
  | .read .bits16 _ => false
  | .write .bits16 _ _ => false

/-- A word is illegal, by its bits (R60): a reserved opcode, or a nonzero reserved bit of its format (R49, R50). -/
def illegalWord (w : Word) : Bool :=
  let opc := w.toNat / 2 ^ 28
  let operands := w.toNat % 2 ^ 28
  if opc = 0x1 ∨ opc = 0x3 then decide (2 ^ 14 ≤ operands)
  else if opc = 0x2 ∨ opc = 0x4 then false
  else if opc = 0x6 ∨ opc = 0x8 then decide (2 ^ 7 ≤ operands)
  else if opc = 0x7 then decide (2 ^ 8 ≤ operands)
  else if opc = 0x0 ∨ opc = 0x5 ∨ opc = 0xF then decide (operands ≠ 0)
  else true

/-- Writing `w` to CMD raises IllegalCommand and changes nothing else but CMD, from every state (R60, R111). -/
def RaisesIllegalCommand (w : Word) : Prop :=
  ∀ s, hostWrite .bits32 0x80#8 w s = .next (raise .illegalCommand { s with cmd := w })

/-- The register at `offset` holds `w`, and a 32-bit host read there returns it and changes nothing of EFX (R37, R41). -/
def ReadsAs (s : State) (offset : HostOffset) (w : Word) : Prop :=
  registerWord s offset = some w ∧ hostRead .bits32 offset s = .next { s with lastRead := some w }

/-- The values STATUS.ERR can hold after a command word (R18's column "raised by EFX", and 0 for one that completes). -/
def errorsOf : Decoded → List (BitVec 4)
  | .illegal _ => [8]
  | .command (.extract _ _ _) => [0, 9]
  | .command (.concat _ _ _ _ _ _) => [0, 9]
  | .command .classify => [0, 3]
  | .command (.dtdDecode _) => [0, 5, 6, 10]
  | .command .nop => [0]
  | .command (.word _ _) => [0]
  | .command (.dword _ _ _ _) => [0]
  | .command (.svdParse _) => [0]
  | .command (.svdMark _ _) => [0]
  | .command .clrstat => [0]

/-- STATUS names the error of the word in CMD (R18, R116), logs it in STICKY (R17), and never shows a reserved code
(R18). -/
abbrev State.statusInv (s : State) : Prop :=
  s.status.err ∈ errorsOf (decode s.cmd) ∧
  (s.status.err ≠ 0 → s.status.stickyBit s.status.err.toNat = true) ∧
  (∀ k ∈ [1, 2, 4, 7], s.status.stickyBit k = false)

/-- CLS_RES holds a classification of its own tag, or its reset value (R21, R77). -/
abbrev State.clsInv (s : State) : Prop :=
  (s.clsRes.valid = true → s.clsRes.cls = classOf s.knownExtTags s.clsRes.tag) ∧
  (s.clsRes.valid = false → s.clsRes = ⟨.base, 0, false⟩)

/-- SVD_RES is valid or has its reset value (R22, R85). -/
abbrev State.svdInv (s : State) : Prop := s.svdRes.valid = false → s.svdRes = ⟨0, false, false, false, false⟩

/-- The pixel clock is 0 only while no DTD_DECODE has completed since reset: every DTD register then has its reset value
(R30, R90 "invariant > 0"). -/
abbrev State.dtdInv (s : State) : Prop :=
  s.dtdPclk = 0 →
    s.dtdH0 = ⟨0, 0⟩ ∧ s.dtdH1 = ⟨0, 0⟩ ∧ s.dtdV0 = ⟨0, 0⟩ ∧ s.dtdV1 = ⟨0, 0⟩ ∧ s.dtdImg = ⟨0, 0⟩ ∧
    s.dtdFlags = ⟨false, false, false, false⟩

/-- KNOWN_EXT_TAGS contains neither 0x00 nor 0x02 (R80). -/
abbrev State.tagsInv (s : State) : Prop := Config.baseTag ∉ s.knownExtTags ∧ Config.ctaTag ∉ s.knownExtTags

/-- The invariant of the machine. -/
abbrev State.Inv (s : State) : Prop :=
  s.buf.wf = true ∧ s.statusInv ∧ s.clsInv ∧ s.svdInv ∧ s.dtdInv ∧ s.tagsInv

end Sys2Proof.Machine
end

