-- ==== Sys2Proof/Certificates/Slice0/Obligations.lean ====
section
/-! DEFINITION. The statements for the provers. Each docstring names the rules of spec/ it formalises. A statement about a
command that completes says it as an equation for the next state, which is also its frame: what the equation does not
name is as it was. `complete` and `raise` are the two ways a command ends; `RaiseAndCompleteWriteStatus` says bit by bit
what they do to STATUS. -/

open Sys2Proof Sys2Proof.Machine

/-! ### Reset and the invariant -/

/-- R125: after reset every register reads 0x00000000, and field by field every field is 0. -/
def Obligations.RegistersReadZeroAfterReset : Prop :=
  ∀ s r, (r = State.reset ∨ r = hardwareReset s) →
    (∀ offset : HostOffset, 0x80 ≤ offset.toNat → offset.toNat ≤ 0xAC → offset.toNat % 4 = 0 →
      registerWord r offset = some 0) ∧
    r.status.err = 0 ∧ (∀ k, r.status.stickyBit k = false) ∧
    r.clsRes.valid = false ∧ r.clsRes.cls.code = 0 ∧ r.clsRes.tag = 0 ∧
    r.svdRes.valid = false ∧ r.svdRes.code = 0 ∧ r.svdRes.native = false ∧
    r.svdRes.lim420 = false ∧ r.svdRes.ycc420 = false ∧ r.dtdFlags.valid = false

/-- R126: after reset every BUF byte counts as unwritten, so no host read of one answers a value. -/
def Obligations.BufIsUnwrittenAfterReset : Prop :=
  ∀ s r, (r = State.reset ∨ r = hardwareReset s) →
    (∀ a, r.buf.written a = false) ∧
    ∀ offset : HostOffset, offset.toNat ≤ 0x7F → hostRead .bits8 offset r = .fault .unwrittenBuffer

/-- What R128 derives from R125: two resets in a row leave the state of one, and a register read right after reset
returns 0. -/
def Obligations.ResetIsIdempotent : Prop :=
  ∀ s, hardwareReset (hardwareReset s) = hardwareReset s ∧
    ∀ offset : HostOffset, 0x80 ≤ offset.toNat → offset.toNat ≤ 0xAC → offset.toNat % 4 = 0 →
      hostRead .bits32 offset (hardwareReset s) = .next { hardwareReset s with lastRead := some 0 }

/-- The reset input as a step, on the model's list of events (log entries 1 and 9, the model's choice). -/
def Obligations.ResetEventResetsInOneStep : Prop :=
  ∀ s rest, s.pending = .reset :: rest →
    step s = .next { State.reset with knownExtTags := s.knownExtTags, pending := rest, lastRead := s.lastRead }

/-- The invariant of the machine holds at reset. -/
def Obligations.ResetMeetsTheInvariant : Prop := State.reset.Inv

/-- Every step keeps the invariant: BUF in canonical form, STATUS naming the error of the word in CMD and never a
reserved code (R17, R18, R116), CLS_RES a classification of its tag (R77), SVD_RES its reset value while invalid
(R22), the pixel clock positive once a decode has completed (R90), and the known tags without 0x00 and 0x02 (R80). -/
def Obligations.StepKeepsTheInvariant : Prop := ∀ s t, s.Inv → step s = .next t → t.Inv

/-- Every step keeps BUF inside its 128 bytes and in canonical form, whatever the registers hold. -/
def Obligations.StepKeepsBufferCanonical : Prop := ∀ s t, s.buf.wf = true → step s = .next t → t.buf.wf = true

/-! ### Encoding -/

/-- Decoding the encoding of a command gives it back, every operand at every value (R49, R51, R59). -/
def Obligations.DecodeOfEncodeIsTheCommand : Prop := ∀ i, i.wellFormed = true → decode (encode i) = .command i

/-- Encoding what a word decodes to gives the word back: no word has two meanings and no bit is dropped (R49, R59). -/
def Obligations.EncodeOfDecodeIsTheWord : Prop := ∀ w i, decode w = .command i → encode i = w

/-- R59, R60: a word is ILLEGAL exactly when its opcode is reserved or a reserved bit of its format is nonzero; the
reason is the reserved opcode exactly for 0x9 to 0xE. -/
def Obligations.IllegalWordsAreTheReservedOnes : Prop :=
  ∀ w : Word,
    ((∃ why, decode w = .illegal why) ↔ illegalWord w = true) ∧
    (decode w = .illegal .reservedOpcode ↔ 0x9 ≤ w.toNat / 2 ^ 28 ∧ w.toNat / 2 ^ 28 ≤ 0xE)

/-- The sentence of R51, which the spec derives from R49 and R50: the encoded word is the OR of the opcode and each
operand field shifted to its low bit. -/
def Obligations.EncodedWordIsOrOfShiftedFields : Prop :=
  encode .nop = 0x00000000#32 ∧ encode .classify = 0x50000000#32 ∧ encode .clrstat = 0xF0000000#32 ∧
  (∀ off s w, encode (.extract off s w) =
    0x10000000#32 ||| off.setWidth 32 ||| (s.setWidth 32 <<< 7) ||| (w.setWidth 32 <<< 10)) ∧
  (∀ hoff hs hw loff ls lw, encode (.concat hoff hs hw loff ls lw) =
    0x20000000#32 ||| hoff.setWidth 32 ||| (hs.setWidth 32 <<< 7) ||| (hw.setWidth 32 <<< 10) |||
      (loff.setWidth 32 <<< 14) ||| (ls.setWidth 32 <<< 21) ||| (lw.setWidth 32 <<< 24)) ∧
  (∀ hoff loff, encode (.word hoff loff) = 0x30000000#32 ||| hoff.setWidth 32 ||| (loff.setWidth 32 <<< 7)) ∧
  (∀ b3 b2 b1 b0, encode (.dword b3 b2 b1 b0) =
    0x40000000#32 ||| b3.setWidth 32 ||| (b2.setWidth 32 <<< 7) ||| (b1.setWidth 32 <<< 14) |||
      (b0.setWidth 32 <<< 21)) ∧
  (∀ off, encode (.svdParse off) = 0x60000000#32 ||| off.setWidth 32) ∧
  (∀ code, encode (.svdMark .lim420 code) = 0x70000000#32 ||| code.setWidth 32) ∧
  (∀ code, encode (.svdMark .ycc420 code) = 0x70000000#32 ||| code.setWidth 32 ||| (1#32 <<< 7)) ∧
  (∀ off, encode (.dtdDecode off) = 0x80000000#32 ||| off.setWidth 32)

/-- The example words of R66's table, which the spec derives from R49 and R50, encode and decode as the table says. -/
def Obligations.ExampleWordsEncodeAndDecode : Prop :=
  ∀ p ∈ [((Instr.nop), 0x00000000#32), (.extract 4 5 3, 0x10000E84#32), (.extract 4 0 5, 0x10001404#32),
      (.concat 58 4 4 56 0 8, 0x280E123A#32), (.word 4 5, 0x30000284#32), (.dword 0 10 9 8, 0x41024500#32),
      (.classify, 0x50000000#32), (.svdParse 5, 0x60000005#32), (.svdMark .ycc420 16, 0x70000090#32),
      (.dtdDecode 54, 0x80000036#32), (.clrstat, 0xF0000000#32)],
    (encode p.1 = p.2 ∧ decode p.2 = .command p.1) ∧
    assemble (.dbtag 4) = some (.extract 4 5 3) ∧ assemble (.dblen 4) = some (.extract 4 0 5)

/-- Each row of spec/opcode_table.json: a word decodes to the row's command exactly when its bits under the row's mask
are the row's match. -/
def Obligations.DecoderMatchesTheOpcodeTable : Prop :=
  ∀ w : Word,
    (w &&& 0xFFFFFFFF#32 = 0x00000000#32 ↔ decode w = .command .nop) ∧
    (w &&& 0xFFFFC000#32 = 0x10000000#32 ↔ ∃ off s n, decode w = .command (.extract off s n)) ∧
    (w &&& 0xF0000000#32 = 0x20000000#32 ↔ ∃ ho hs hw lo ls lw, decode w = .command (.concat ho hs hw lo ls lw)) ∧
    (w &&& 0xFFFFC000#32 = 0x30000000#32 ↔ ∃ ho lo, decode w = .command (.word ho lo)) ∧
    (w &&& 0xF0000000#32 = 0x40000000#32 ↔ ∃ b3 b2 b1 b0, decode w = .command (.dword b3 b2 b1 b0)) ∧
    (w &&& 0xFFFFFFFF#32 = 0x50000000#32 ↔ decode w = .command .classify) ∧
    (w &&& 0xFFFFFF80#32 = 0x60000000#32 ↔ ∃ off, decode w = .command (.svdParse off)) ∧
    (w &&& 0xFFFFFF00#32 = 0x70000000#32 ↔ ∃ sel code, decode w = .command (.svdMark sel code)) ∧
    (w &&& 0xFFFFFF80#32 = 0x80000000#32 ↔ ∃ off, decode w = .command (.dtdDecode off)) ∧
    (w &&& 0xFFFFFFFF#32 = 0xF0000000#32 ↔ decode w = .command .clrstat)

/-- R63: a command's line assembles exactly when it is the line of some command, operands in the table's order; a line
with an operand that does not fit is the line of none, so it has no encoding. -/
def Obligations.AssemblerInvertsTheCommandLines : Prop :=
  ∀ l : Source, l.isCommand = true → ∀ i, assemble l = some i ↔ i.source = l

/-- R64: the nine pseudo-instructions and their expansions, none assembling where its condition fails. -/
def Obligations.PseudoInstructionsExpand : Prop :=
  ∀ off n,
    assemble (.byte off) = assemble (.extract off 0 8) ∧
    assemble (.bit off n) = (if n ≤ 7 then assemble (.extract off n 1) else none) ∧
    assemble (.nibhi off) = assemble (.extract off 4 4) ∧
    assemble (.niblo off) = assemble (.extract off 0 4) ∧
    assemble (.dbtag off) = assemble (.extract off 5 3) ∧
    assemble (.dblen off) = assemble (.extract off 0 5) ∧
    assemble (.wordle off) = (if off ≤ 126 then assemble (.word (off + 1) off) else none) ∧
    assemble (.wordbe off) = (if off ≤ 126 then assemble (.word off (off + 1)) else none) ∧
    assemble (.dwordle off) = (if off ≤ 124 then assemble (.dword (off + 3) (off + 2) (off + 1) off) else none)

/-! ### Running a command word -/

/-- A step is what its next event does, at the state with that event consumed (log entry 1, the model's choice): `exec i`
with the word in CMD for a CMD write of a word that decodes to `i` (R15), IllegalCommand with the word in CMD for one that
decodes to none (R60), and `hostRead` or `hostWrite` for a host read or write of any width and offset (R12, R37). -/
def Obligations.StepRunsTheDecodedCommand : Prop :=
  ∀ s rest,
    (∀ w i, s.pending = .access (.write .bits32 0x80#8 w) :: rest → decode w = .command i →
      step s = exec i { s with pending := rest, cmd := w }) ∧
    (∀ w why, s.pending = .access (.write .bits32 0x80#8 w) :: rest → decode w = .illegal why →
      step s = .next (raise .illegalCommand { s with pending := rest, cmd := w })) ∧
    (∀ width offset, s.pending = .access (.read width offset) :: rest →
      step s = hostRead width offset { s with pending := rest }) ∧
    (∀ width offset v, s.pending = .access (.write width offset v) :: rest →
      step s = hostWrite width offset v { s with pending := rest }) ∧
    ∀ e, s.pending = e :: rest → step s = perform e { s with pending := rest }

/-- R111: an illegal word changes STATUS and CMD alone, whatever BUF holds, so no BUF byte is read. -/
def Obligations.IllegalWordRaisesIllegalCommand : Prop :=
  ∀ s (w : Word), illegalWord w = true →
    ∃ t, hostWrite .bits32 0x80#8 w s = .next t ∧ t = { s with cmd := w, status := t.status } ∧
      t.status.err.toNat = 8 ∧ (∀ k, t.status.stickyBit k = (decide (k = 8) || s.status.stickyBit k))

/-- R15: a CMD write that answers a next state leaves the word in CMD, a read of CMD returns it, and the effect is
that of the one command the word decodes to. -/
def Obligations.CmdWriteStoresAndRunsTheWord : Prop :=
  ∀ s w t, hostWrite .bits32 0x80#8 w s = .next t →
    t.cmd = w ∧ hostRead .bits32 0x80#8 t = .next { t with lastRead := some w } ∧
    ∀ i, decode w = .command i → exec i { s with cmd := w } = .next t

/-- The part of R113 on STATUS: what `raise E` and `complete` write, in the bits of STATUS (R16) with the codes of
R18. -/
def Obligations.RaiseAndCompleteWriteStatus : Prop :=
  (∀ s, complete s = { s with status := (complete s).status } ∧
    (complete s).status.word = s.status.word &&& 0xFFFFFFF0#32) ∧
  ∀ e (c : Nat) s, (e, c) ∈ [(Error.unsupportedBlock, 3), (.invalidPixelClock, 5), (.invalidSyncType, 6),
      (.illegalCommand, 8), (.fieldContract, 9), (.outOfRange, 10)] →
    raise e s = { s with status := (raise e s).status } ∧
    (raise e s).status.word = (s.status.word &&& 0xFFFFFFF0#32) ||| BitVec.ofNat 32 c ||| (1#32 <<< (16 + c))

/-- R17, as one rule over all steps: only a command word whose error is then in ERR sets a STICKY bit, and only reset
and CLRSTAT clear one. -/
def Obligations.StickyBitsAreSetByRaiseAndClearedByClrstatOrReset : Prop :=
  ∀ s t k, step s = .next t →
    (s.status.stickyBit k = false → t.status.stickyBit k = true →
      (∃ w rest, s.pending = .access (.write .bits32 0x80#8 w) :: rest) ∧ t.status.err.toNat = k) ∧
    (s.status.stickyBit k = true → t.status.stickyBit k = false →
      ∃ rest, s.pending = .reset :: rest ∨ s.pending = .access (.write .bits32 0x80#8 0xF0000000#32) :: rest)

/-- R124, R130: a command answers a next state exactly when every BUF byte it reads is written, and it is never
refused. -/
def Obligations.CommandCompletesExactlyWhenItsBytesAreWritten : Prop :=
  ∀ i s, ((∃ t, exec i s = .next t) ↔ ∀ a ∈ commandReads i, s.buf.written a = true) ∧ ∀ r, exec i s ≠ .refused r

/-- R122: the model fault UnwrittenBuffer, on a command that reads an unwritten byte and on a host read of one. -/
def Obligations.UnwrittenBufferFaultsExactlyOnUnwrittenReads : Prop :=
  (∀ i s, exec i s = .fault .unwrittenBuffer ↔ ∃ a ∈ commandReads i, s.buf.written a = false) ∧
  (∀ (o : HostOffset) s, o.toNat ≤ 0x7F →
    (hostRead .bits8 o s = .fault .unwrittenBuffer ↔ s.buf.written o.toNat = false)) ∧
  (∀ (o : HostOffset) s, o.toNat ≤ 0x7C → o.toNat % 4 = 0 →
    (hostRead .bits32 o s = .fault .unwrittenBuffer ↔ ∃ j, j < 4 ∧ s.buf.written (o.toNat + j) = false))

/-- The part of R42 that can be seen: a command reads BUF only at the offsets its rule names. Two buffers that agree
there give the same outcome, and the command leaves either buffer as it is (R13). -/
def Obligations.CommandsReadOnlyTheirNamedBytes : Prop :=
  ∀ i s (m : Memory), (∀ a ∈ commandReads i, m.read a = s.buf.read a) →
    exec i { s with buf := m } =
      match exec i s with
      | .next t => .next { t with buf := m }
      | .fault f => .fault f
      | .refused r => .refused r

/-- R20, R21, R22, R30, R31: each result register is written only by the commands its rule names, and every command
leaves CMD, BUF and the model's own fields as they are. -/
def Obligations.ResultRegistersAreWrittenOnlyByTheirCommands : Prop :=
  ∀ i s t, exec i s = .next t →
    (∀ a, t.buf.read a = s.buf.read a) ∧ t.cmd = s.cmd ∧
    t.knownExtTags = s.knownExtTags ∧ t.pending = s.pending ∧ t.lastRead = s.lastRead ∧
    (t.bfxRes ≠ s.bfxRes → i.isBfx = true) ∧
    (t.clsRes ≠ s.clsRes → i = .classify) ∧
    (t.svdRes ≠ s.svdRes → (∃ off, i = .svdParse off) ∨ ∃ sel code, i = .svdMark sel code) ∧
    ((∃ off, i = .dtdDecode off) ∨
      (t.dtdPclk = s.dtdPclk ∧ t.dtdH0 = s.dtdH0 ∧ t.dtdH1 = s.dtdH1 ∧ t.dtdV0 = s.dtdV0 ∧ t.dtdV1 = s.dtdV1 ∧
        t.dtdImg = s.dtdImg ∧ t.dtdFlags = s.dtdFlags))

/-! ### BFX -/

/-- R67: a BFX command writes only BFX_RES and STATUS, its result is a function of the bytes it names and its
immediates alone, and one that raises leaves BFX_RES unchanged. -/
def Obligations.BfxResultIsAFunctionOfTheNamedBytes : Prop :=
  ∀ i s s' t, i.isBfx = true → (∀ a ∈ commandReads i, s'.buf.read a = s.buf.read a) → exec i s = .next t →
    t = { s with bfxRes := t.bfxRes, status := t.status } ∧
    (t.status.err ≠ 0 → t.bfxRes = s.bfxRes) ∧
    ∃ t', exec i s' = .next t' ∧ t'.status.err = t.status.err ∧ (t.status.err = 0 → t'.bfxRes = t.bfxRes)

/-- R68: EXTRACT, its word, its error, its reserved bits, and its result as integer arithmetic. -/
def Obligations.ExtractTakesTheField : Prop :=
  ∀ (off : Offset) (shift : BitVec 3) (width : BitVec 4),
    encode (.extract off shift width) =
      0x10000000#32 ||| off.setWidth 32 ||| (shift.setWidth 32 <<< 7) ||| (width.setWidth 32 <<< 10) ∧
    (∀ s, (width.toNat > 8 ∨ shift.toNat + width.toNat > 8) →
      exec (.extract off shift width) s = .next (raise .fieldContract s)) ∧
    (∀ s b, width.toNat ≤ 8 → shift.toNat + width.toNat ≤ 8 → s.buf.read off.toNat = some b →
      exec (.extract off shift width) s =
        .next (complete { s with bfxRes := BitVec.ofNat 32 (b.toNat / 2 ^ shift.toNat % 2 ^ width.toNat) })) ∧
    ∀ w : Word, w.toNat / 2 ^ 28 = 1 → w.toNat / 2 ^ 14 % 2 ^ 14 ≠ 0 → RaisesIllegalCommand w

/-- R69: a breach of the field contract by EXTRACT, or by either field of CONCAT, raises FieldContract; BUF does not
matter, so no byte is read, and only STATUS changes. -/
def Obligations.FieldContractBreachReadsNothing : Prop :=
  ∀ s (o o' : Offset) (sh sh' : BitVec 3) (w w' : BitVec 4), (w.toNat > 8 ∨ sh.toNat + w.toNat > 8) →
    ∀ i ∈ [Instr.extract o sh w, .concat o sh w o' sh' w', .concat o' sh' w' o sh w],
      ∃ t, exec i s = .next t ∧ t = { s with status := t.status } ∧ t.status.err.toNat = 9 ∧
        ∀ k, t.status.stickyBit k = (decide (k = 9) || s.status.stickyBit k)

/-- R70: CONCAT, its word and its result as integer arithmetic; its errors are those of R69. -/
def Obligations.ConcatJoinsTwoFields : Prop :=
  ∀ (hoff : Offset) (hs : BitVec 3) (hw : BitVec 4) (loff : Offset) (ls : BitVec 3) (lw : BitVec 4),
    encode (.concat hoff hs hw loff ls lw) =
      0x20000000#32 ||| hoff.setWidth 32 ||| (hs.setWidth 32 <<< 7) ||| (hw.setWidth 32 <<< 10) |||
        (loff.setWidth 32 <<< 14) ||| (ls.setWidth 32 <<< 21) ||| (lw.setWidth 32 <<< 24) ∧
    (∀ s, (hw.toNat > 8 ∨ hs.toNat + hw.toNat > 8 ∨ lw.toNat > 8 ∨ ls.toNat + lw.toNat > 8) →
      exec (.concat hoff hs hw loff ls lw) s = .next (raise .fieldContract s)) ∧
    (∀ s hi lo, hw.toNat ≤ 8 → hs.toNat + hw.toNat ≤ 8 → lw.toNat ≤ 8 → ls.toNat + lw.toNat ≤ 8 →
      s.buf.read hoff.toNat = some hi → s.buf.read loff.toNat = some lo →
      exec (.concat hoff hs hw loff ls lw) s =
        .next (complete { s with
          bfxRes := BitVec.ofNat 32 (hi.toNat / 2 ^ hs.toNat % 2 ^ hw.toNat * 2 ^ lw.toNat +
            lo.toNat / 2 ^ ls.toNat % 2 ^ lw.toNat) })) ∧
    ∀ w : Word, w.toNat / 2 ^ 28 = 2 → ∃ i, decode w = .command i

/-- The corner cases of CONCAT that R71 derives from R70 and R69: the bound, a zero width on either side, both fields
from one byte, and the byte whole from its two nibbles. -/
def Obligations.ConcatCornerCases : Prop :=
  (∀ s hoff hs hw loff ls lw t, exec (.concat hoff hs hw loff ls lw) s = .next t → t.status.err = 0 →
    t.bfxRes.toNat < 2 ^ (hw.toNat + lw.toNat) ∧ t.bfxRes.toNat ≤ 0xFFFF) ∧
  (∀ s hoff hs hw loff ls lo, s.buf.read loff.toNat = some lo →
    exec (.concat hoff hs hw loff ls 0) s = exec (.extract hoff hs hw) s) ∧
  (∀ s hoff hs hi loff ls lw, s.buf.read hoff.toNat = some hi →
    exec (.concat hoff hs 0 loff ls lw) s = exec (.extract loff ls lw) s) ∧
  ∀ s a b, s.buf.read a.toNat = some b →
    exec (.concat a 4 4 a 0 4) s = .next (complete { s with bfxRes := b.setWidth 32 })

/-- R72: WORD, its word, its reserved bits, and its result as integer arithmetic. -/
def Obligations.WordJoinsTwoBytes : Prop :=
  ∀ hoff loff : Offset,
    encode (.word hoff loff) = 0x30000000#32 ||| hoff.setWidth 32 ||| (loff.setWidth 32 <<< 7) ∧
    (∀ s hi lo, s.buf.read hoff.toNat = some hi → s.buf.read loff.toNat = some lo →
      exec (.word hoff loff) s =
        .next (complete { s with bfxRes := BitVec.ofNat 32 (hi.toNat * 256 + lo.toNat) })) ∧
    ∀ w : Word, w.toNat / 2 ^ 28 = 3 → w.toNat / 2 ^ 14 % 2 ^ 14 ≠ 0 → RaisesIllegalCommand w

/-- R73: DWORD, its word and its result as integer arithmetic; it raises nothing and has no reserved bits. -/
def Obligations.DwordJoinsFourBytes : Prop :=
  ∀ b3 b2 b1 b0 : Offset,
    encode (.dword b3 b2 b1 b0) =
      0x40000000#32 ||| b3.setWidth 32 ||| (b2.setWidth 32 <<< 7) ||| (b1.setWidth 32 <<< 14) |||
        (b0.setWidth 32 <<< 21) ∧
    (∀ s v3 v2 v1 v0, s.buf.read b3.toNat = some v3 → s.buf.read b2.toNat = some v2 → s.buf.read b1.toNat = some v1 →
      s.buf.read b0.toNat = some v0 →
      exec (.dword b3 b2 b1 b0) s =
        .next (complete { s with
          bfxRes := BitVec.ofNat 32 (((v3.toNat * 256 + v2.toNat) * 256 + v1.toNat) * 256 + v0.toNat) })) ∧
    ∀ w : Word, w.toNat / 2 ^ 28 = 4 → ∃ i, decode w = .command i

/-- R74: the bounds of the BFX results. -/
def Obligations.BfxResultsAreBounded : Prop :=
  (∀ s off shift width t, exec (.extract off shift width) s = .next t → t.status.err = 0 →
    t.bfxRes.toNat < 2 ^ width.toNat ∧ t.bfxRes.toNat ≤ 255) ∧
  (∀ s hoff hs hw loff ls lw t, exec (.concat hoff hs hw loff ls lw) s = .next t → t.status.err = 0 →
    t.bfxRes.toNat < 2 ^ (hw.toNat + lw.toNat) ∧ t.bfxRes.toNat ≤ 65535) ∧
  ∀ s hoff loff t, exec (.word hoff loff) s = .next t → t.bfxRes.toNat ≤ 65535

/-- R19, R31: the frame of the BFX commands. A next state differs in BFX_RES and STATUS alone, in STATUS in ERR and at
most `STICKY[9]`; every byte of BUF reads as before, since no form stores. -/
def Obligations.BfxFrame : Prop :=
  ∀ i s t, i.isBfx = true → exec i s = .next t →
    t = { s with bfxRes := t.bfxRes, status := t.status } ∧
    (∀ k, k ≠ 9 → t.status.stickyBit k = s.status.stickyBit k) ∧
    ∀ a, t.buf.read a = s.buf.read a

/-! ### CLS -/

/-- R77: CLASSIFY, its word, its reserved bits, and the whole of CLS_RES and STATUS from the tag byte. -/
def Obligations.ClassifyDecidesFromTheTagByte : Prop :=
  encode .classify = 0x50000000#32 ∧
  (∀ w : Word, w.toNat / 2 ^ 28 = 5 → w.toNat % 2 ^ 28 ≠ 0 → RaisesIllegalCommand w) ∧
  ∀ s (tag : Byte) (c : Nat), s.buf.read 0 = some tag →
    c = (if tag.toNat = 0x00 then 0 else if tag.toNat = 0x02 then 1 else if tag ∈ s.knownExtTags then 2 else 3) →
    ∃ t, exec .classify s = .next t ∧
      t = { s with clsRes := t.clsRes,
                   status := if c = 3 then (raise .unsupportedBlock s).status else (complete s).status } ∧
      t.clsRes.word.toNat = 2 ^ 31 + tag.toNat * 2 ^ 8 + c

/-- R78: a CLASSIFY of an unsupported tag still writes CLS_RES (CLASS 3, the tag, VALID 1), leaves ERR 3 and
`STICKY[3]` 1, and changes nothing else. -/
def Obligations.UnsupportedTagStillWritesClsRes : Prop :=
  ∀ s tag, s.buf.read 0 = some tag → tag ≠ 0x00#8 → tag ≠ 0x02#8 → tag ∉ s.knownExtTags →
    ∃ t, exec .classify s = .next t ∧ t = { s with clsRes := ⟨.unsupported, tag, true⟩, status := t.status } ∧
      t.status.word = (s.status.word &&& 0xFFFFFFF0#32) ||| 0x00080003#32

/-- R80 (log entry 12 on STICKY, log entry 5 on the default set): the tags of the known set decide only between
classes 2 and 3 of a tag that is neither 0x00 nor 0x02, hence CLASS and STATUS; and the classification of all 256 tags
under the default set. -/
def Obligations.KnownTagSetDecidesOnlyClassTwoOrThree : Prop :=
  (∀ s known t t', exec .classify s = .next t → exec .classify { s with knownExtTags := known } = .next t' →
    t' = { t with knownExtTags := known, clsRes := { t.clsRes with cls := t'.clsRes.cls }, status := t'.status } ∧
    (t.clsRes.tag = 0x00#8 ∨ t.clsRes.tag = 0x02#8 → t'.clsRes = t.clsRes ∧ t'.status = t.status) ∧
    (t.clsRes.tag ≠ 0x00#8 → t.clsRes.tag ≠ 0x02#8 → t'.clsRes.cls = .otherKnown ∨ t'.clsRes.cls = .unsupported)) ∧
  ∀ tag : Byte, (classOf Config.defaultKnownExtTags tag).code.toNat =
    if tag.toNat = 0x00 then 0 else if tag.toNat = 0x02 then 1
    else if tag.toNat = 0x10 ∨ tag.toNat = 0x40 ∨ tag.toNat = 0x50 ∨ tag.toNat = 0x60 then 2 else 3

/-! ### SVD -/

/-- R82, R83: SVD_PARSE, its word, its reserved bits, and the whole record; every byte parses. The places of CODE and
NATIVE in the byte are the spec's "[from general knowledge, not in source]" (log entry 11). -/
def Obligations.SvdParseWritesTheWholeRecord : Prop :=
  ∀ off : Offset,
    encode (.svdParse off) = 0x60000000#32 ||| off.setWidth 32 ∧
    (∀ w : Word, w.toNat / 2 ^ 28 = 6 → w.toNat / 2 ^ 7 % 2 ^ 21 ≠ 0 → RaisesIllegalCommand w) ∧
    ∀ s b, s.buf.read off.toNat = some b →
      ∃ t, exec (.svdParse off) s = .next t ∧ t = complete { s with svdRes := t.svdRes } ∧
        t.svdRes.code.toNat = b.toNat % 128 ∧ t.svdRes.native = decide (128 ≤ b.toNat) ∧
        t.svdRes.lim420 = false ∧ t.svdRes.ycc420 = false ∧ t.svdRes.valid = true ∧
        t.svdRes.word = 0x80000000#32 ||| b.setWidth 32

/-- R84: SVD_MARK, its word, its reserved bits, and the bit it sets in SVD_RES's word when VALID is 1 and CODE
matches. -/
def Obligations.SvdMarkSetsTheSelectedFlagOnAMatch : Prop :=
  ∀ (sel : Flag420) (code : BitVec 7),
    encode (.svdMark sel code) =
      0x70000000#32 ||| code.setWidth 32 ||| (match sel with | .lim420 => 0#32 | .ycc420 => 0x80#32) ∧
    (∀ w : Word, w.toNat / 2 ^ 28 = 7 → w.toNat / 2 ^ 8 % 2 ^ 20 ≠ 0 → RaisesIllegalCommand w) ∧
    ∀ s, ∃ t, exec (.svdMark sel code) s = .next t ∧ t = complete { s with svdRes := t.svdRes } ∧
      t.svdRes.word =
        if s.svdRes.word &&& 0x8000007F#32 = 0x80000000#32 ||| code.setWidth 32 then
          s.svdRes.word ||| (match sel with | .lim420 => 0x100#32 | .ycc420 => 0x200#32)
        else s.svdRes.word

/-- What R85 derives from R84: SVD_MARK only sets a flag, so repeating it changes nothing; it compares CODE alone,
does nothing while VALID is 0, and reads no BUF byte. -/
def Obligations.SvdMarkOnlySetsAndIsIdempotent : Prop :=
  ∀ s sel code t, exec (.svdMark sel code) s = .next t →
    exec (.svdMark sel code) t = .next t ∧
    (s.svdRes.lim420 = true → t.svdRes.lim420 = true) ∧ (s.svdRes.ycc420 = true → t.svdRes.ycc420 = true) ∧
    (s.svdRes.valid = true → s.svdRes.code = code →
      t.svdRes = { s.svdRes with lim420 := s.svdRes.lim420 || decide (sel = .lim420),
                                 ycc420 := s.svdRes.ycc420 || decide (sel = .ycc420) }) ∧
    (s.svdRes.valid = false → t.svdRes = s.svdRes) ∧
    ∀ m, exec (.svdMark sel code) { s with buf := m } = .next { t with buf := m }

/-- The frame of CLASSIFY, SVD_PARSE and SVD_MARK: beside STATUS each changes its unit's one register; in STATUS, ERR
and for CLASSIFY at most `STICKY[3]`; every byte of BUF reads as before (R31, R78, R82, R84). -/
def Obligations.ClsAndSvdFrame : Prop :=
  ∀ s t, (exec .classify s = .next t →
      t = { s with clsRes := t.clsRes, status := t.status } ∧
      (∀ k, k ≠ 3 → t.status.stickyBit k = s.status.stickyBit k) ∧ ∀ a, t.buf.read a = s.buf.read a) ∧
    ∀ i, (∃ off, i = .svdParse off) ∨ (∃ sel code, i = .svdMark sel code) → exec i s = .next t →
      t = { s with svdRes := t.svdRes, status := t.status } ∧
      (∀ k, t.status.stickyBit k = s.status.stickyBit k) ∧ ∀ a, t.buf.read a = s.buf.read a

/-! ### DTD -/

/-- R88, R89, R90, R97, on the wire layout that R89 takes from general knowledge (log entry 11): a DTD_DECODE that
passes its checks completes with every field as integer arithmetic on the descriptor's bytes, and changes only the
seven DTD registers and STATUS. -/
def Obligations.DtdDecodeWritesTheSevenRegisters : Prop :=
  ∀ s off d, off.toNat ≤ 110 → DescriptorAt s off d → (d 1).toNat * 256 + (d 0).toNat ≠ 0 →
    (d 17).toNat / 8 % 4 = 3 →
    ∃ t, exec (.dtdDecode off) s = .next t ∧
      t = complete { s with dtdPclk := t.dtdPclk, dtdH0 := t.dtdH0, dtdH1 := t.dtdH1, dtdV0 := t.dtdV0,
                            dtdV1 := t.dtdV1, dtdImg := t.dtdImg, dtdFlags := t.dtdFlags } ∧
      t.dtdPclk.toNat = (d 1).toNat * 256 + (d 0).toNat ∧
      t.dtdH0.hactive.toNat = (d 4).toNat / 16 * 256 + (d 2).toNat ∧
      t.dtdH0.hblank.toNat = (d 4).toNat % 16 * 256 + (d 3).toNat ∧
      t.dtdV0.vactive.toNat = (d 7).toNat / 16 * 256 + (d 5).toNat ∧
      t.dtdV0.vblank.toNat = (d 7).toNat % 16 * 256 + (d 6).toNat ∧
      t.dtdH1.hsoff.toNat = (d 11).toNat / 64 * 256 + (d 8).toNat ∧
      t.dtdH1.hsw.toNat = (d 11).toNat / 16 % 4 * 256 + (d 9).toNat ∧
      t.dtdV1.vsoff.toNat = (d 11).toNat / 4 % 4 * 16 + (d 10).toNat / 16 ∧
      t.dtdV1.vsw.toNat = (d 11).toNat % 4 * 16 + (d 10).toNat % 16 ∧
      t.dtdImg.himg.toNat = (d 14).toNat / 16 * 256 + (d 12).toNat ∧
      t.dtdImg.vimg.toNat = (d 14).toNat % 16 * 256 + (d 13).toNat ∧
      t.dtdFlags.word.toNat =
        2 ^ 31 + (d 17).toNat / 2 % 2 * 4 + (d 17).toNat / 4 % 2 * 2 + (d 17).toNat / 128

/-- R98, R101, with the bit positions of R96 (log entry 11): the checks in their order, each failure with its error;
VALID is cleared and every other field of the seven registers stays. The window check reads nothing: BUF does not
matter to it. -/
def Obligations.DtdChecksFailInOrder : Prop :=
  (∀ w : Word, w.toNat / 2 ^ 28 = 8 → w.toNat / 2 ^ 7 % 2 ^ 21 ≠ 0 → RaisesIllegalCommand w) ∧
  ∀ s off, let failed := { s with dtdFlags := { s.dtdFlags with valid := false } }
    (off.toNat > 110 → exec (.dtdDecode off) s = .next (raise .outOfRange failed)) ∧
    ∀ d, off.toNat ≤ 110 → DescriptorAt s off d →
      ((d 0).toNat = 0 ∧ (d 1).toNat = 0 → exec (.dtdDecode off) s = .next (raise .invalidPixelClock failed)) ∧
      (¬ ((d 0).toNat = 0 ∧ (d 1).toNat = 0) → (d 17).toNat / 8 % 4 ≠ 3 →
        exec (.dtdDecode off) s = .next (raise .invalidSyncType failed))

/-- What R91 to R95 derive from R88 and R70, over R89's layout (log entry 11): each geometry field of a completed
DTD_DECODE is what the CONCAT its rule names would give. -/
def Obligations.DtdFieldsAreTheConcatsOfTheirRules : Prop :=
  ∀ s off t, exec (.dtdDecode off) s = .next t → t.status.err = 0 →
    ConcatGives s (off + 4) 4 4 (off + 2) 0 8 (t.dtdH0.hactive.setWidth 32) ∧
    ConcatGives s (off + 4) 0 4 (off + 3) 0 8 (t.dtdH0.hblank.setWidth 32) ∧
    ConcatGives s (off + 7) 4 4 (off + 5) 0 8 (t.dtdV0.vactive.setWidth 32) ∧
    ConcatGives s (off + 7) 0 4 (off + 6) 0 8 (t.dtdV0.vblank.setWidth 32) ∧
    ConcatGives s (off + 11) 6 2 (off + 8) 0 8 (t.dtdH1.hsoff.setWidth 32) ∧
    ConcatGives s (off + 11) 4 2 (off + 9) 0 8 (t.dtdH1.hsw.setWidth 32) ∧
    ConcatGives s (off + 11) 2 2 (off + 10) 4 4 (t.dtdV1.vsoff.setWidth 32) ∧
    ConcatGives s (off + 11) 0 2 (off + 10) 0 4 (t.dtdV1.vsw.setWidth 32) ∧
    ConcatGives s (off + 14) 4 4 (off + 12) 0 8 (t.dtdImg.himg.setWidth 32) ∧
    ConcatGives s (off + 14) 0 4 (off + 13) 0 8 (t.dtdImg.vimg.setWidth 32)

/-- R100, on R89's layout (log entry 11): bytes 15 and 16 and bits 6, 5 and 0 of byte 17 never change any result and
are not checked. -/
def Obligations.DtdIgnoresBorderAndStereo : Prop :=
  ∀ s off d d', DescriptorAt s off d → (∀ i : Fin 18, i.val < 15 → d' i = d i) →
    d' 17 &&& 0x9E#8 = d 17 &&& 0x9E#8 → ∀ m t, DescriptorAt { s with buf := m } off d' →
    exec (.dtdDecode off) s = .next t → exec (.dtdDecode off) { s with buf := m } = .next { t with buf := m }

/-- R30, R101, R135: a DTD_DECODE writes all seven registers in its one step and leaves VALID 1, or clears VALID
alone; a stored pixel clock is never 0 (R90). -/
def Obligations.DtdRegistersAreWrittenTogetherOrNotAtAll : Prop :=
  ∀ s off t, exec (.dtdDecode off) s = .next t →
    (t.status.err.toNat = 0 ∧ t.dtdFlags.valid = true ∧ t.dtdPclk ≠ 0 ∧
      ∃ d, DescriptorAt s off d ∧ ∀ s', DescriptorAt s' off d →
        exec (.dtdDecode off) s' = .next (complete { s' with
          dtdPclk := t.dtdPclk, dtdH0 := t.dtdH0, dtdH1 := t.dtdH1, dtdV0 := t.dtdV0, dtdV1 := t.dtdV1,
          dtdImg := t.dtdImg, dtdFlags := t.dtdFlags })) ∨
    ((t.status.err.toNat = 5 ∨ t.status.err.toNat = 6 ∨ t.status.err.toNat = 10) ∧
      t = { s with dtdFlags := { s.dtdFlags with valid := false }, status := t.status })

/-- The frame of DTD_DECODE: the seven DTD registers and STATUS, in STATUS ERR and at most `STICKY[5]`, `[6]` or
`[10]`; every byte of BUF reads as before (R87, R31). -/
def Obligations.DtdFrame : Prop :=
  ∀ s off t, exec (.dtdDecode off) s = .next t →
    t = { s with dtdPclk := t.dtdPclk, dtdH0 := t.dtdH0, dtdH1 := t.dtdH1, dtdV0 := t.dtdV0, dtdV1 := t.dtdV1,
                 dtdImg := t.dtdImg, dtdFlags := t.dtdFlags, status := t.status } ∧
    (∀ k, k ≠ 5 → k ≠ 6 → k ≠ 10 → t.status.stickyBit k = s.status.stickyBit k) ∧
    ∀ a, t.buf.read a = s.buf.read a

/-- R99: PREP reads as 0 at all times, in every state. -/
def Obligations.PixelRepetitionReadsZero : Prop :=
  ∀ s w, registerWord s 0xAC#8 = some w → w.extractLsb' 8 4 = 0#4

/-! ### Control -/

/-- R105: NOP, its word, its reserved bits, and its one effect: ERR is 0, every other bit of STATUS stays. -/
def Obligations.NopOnlyClearsErr : Prop :=
  encode .nop = 0x00000000#32 ∧
  (∀ w : Word, w.toNat / 2 ^ 28 = 0 → w.toNat % 2 ^ 28 ≠ 0 → RaisesIllegalCommand w) ∧
  ∀ s, ∃ t, exec .nop s = .next t ∧ t = { s with status := t.status } ∧
    t.status.word = s.status.word &&& 0xFFFFFFF0#32

/-- R107: CLRSTAT, its word, its reserved bits, and its one effect: STATUS is 0; twice is once. -/
def Obligations.ClrstatClearsStatus : Prop :=
  encode .clrstat = 0xF0000000#32 ∧
  (∀ w : Word, w.toNat / 2 ^ 28 = 15 → w.toNat % 2 ^ 28 ≠ 0 → RaisesIllegalCommand w) ∧
  (∀ s, ∃ t, exec .clrstat s = .next t ∧ t = { s with status := t.status } ∧ t.status.word = 0 ∧
    exec .clrstat t = .next t) ∧
  ∀ i s t k, exec i s = .next t → s.status.stickyBit k = true → t.status.stickyBit k = false → i = .clrstat

/-! ### The registers' words -/

/-- R16: the layout of STATUS, in the word a 32-bit host read returns (log entry 2: the model's record of it). -/
def Obligations.StatusWordLayout : Prop :=
  ∀ s, ∃ w, ReadsAs s 0x84#8 w ∧ w.extractLsb' 0 4 = s.status.err ∧ w.extractLsb' 4 12 = 0 ∧
    w.getLsbD 16 = false ∧ (∀ k, 1 ≤ k → k ≤ 10 → w.getLsbD (16 + k) = s.status.stickyBit k) ∧ w.extractLsb' 27 5 = 0

/-- R21, R22: the layouts of CLS_RES and SVD_RES, in the words 32-bit host reads return (log entry 2). -/
def Obligations.ClsAndSvdWordLayouts : Prop :=
  ∀ s,
    (∃ w, ReadsAs s 0x8C#8 w ∧ w.extractLsb' 0 2 = s.clsRes.cls.code ∧ w.extractLsb' 2 6 = 0 ∧
      w.extractLsb' 8 8 = s.clsRes.tag ∧ w.extractLsb' 16 15 = 0 ∧ w.getLsbD 31 = s.clsRes.valid) ∧
    ∃ w, ReadsAs s 0x90#8 w ∧ w.extractLsb' 0 7 = s.svdRes.code ∧ w.getLsbD 7 = s.svdRes.native ∧
      w.getLsbD 8 = s.svdRes.lim420 ∧ w.getLsbD 9 = s.svdRes.ycc420 ∧ w.extractLsb' 10 21 = 0 ∧
      w.getLsbD 31 = s.svdRes.valid

/-- R23 to R29, field widths from R89's layout (log entry 11): the layouts of the seven DTD registers, in the words
32-bit host reads return (log entry 2). -/
def Obligations.DtdWordLayouts : Prop :=
  ∀ s,
    (∃ w, ReadsAs s 0x94#8 w ∧ w.extractLsb' 0 16 = s.dtdPclk ∧ w.extractLsb' 16 16 = 0) ∧
    (∃ w, ReadsAs s 0x98#8 w ∧ w.extractLsb' 0 12 = s.dtdH0.hactive ∧ w.extractLsb' 12 4 = 0 ∧
      w.extractLsb' 16 12 = s.dtdH0.hblank ∧ w.extractLsb' 28 4 = 0) ∧
    (∃ w, ReadsAs s 0x9C#8 w ∧ w.extractLsb' 0 10 = s.dtdH1.hsoff ∧ w.extractLsb' 10 6 = 0 ∧
      w.extractLsb' 16 10 = s.dtdH1.hsw ∧ w.extractLsb' 26 6 = 0) ∧
    (∃ w, ReadsAs s 0xA0#8 w ∧ w.extractLsb' 0 12 = s.dtdV0.vactive ∧ w.extractLsb' 12 4 = 0 ∧
      w.extractLsb' 16 12 = s.dtdV0.vblank ∧ w.extractLsb' 28 4 = 0) ∧
    (∃ w, ReadsAs s 0xA4#8 w ∧ w.extractLsb' 0 6 = s.dtdV1.vsoff ∧ w.extractLsb' 6 10 = 0 ∧
      w.extractLsb' 16 6 = s.dtdV1.vsw ∧ w.extractLsb' 22 10 = 0) ∧
    (∃ w, ReadsAs s 0xA8#8 w ∧ w.extractLsb' 0 12 = s.dtdImg.himg ∧ w.extractLsb' 12 4 = 0 ∧
      w.extractLsb' 16 12 = s.dtdImg.vimg ∧ w.extractLsb' 28 4 = 0) ∧
    (∃ w, ReadsAs s 0xAC#8 w ∧ w.getLsbD 0 = s.dtdFlags.interlaced ∧ w.getLsbD 1 = s.dtdFlags.vsyncPos ∧
      w.getLsbD 2 = s.dtdFlags.hsyncPos ∧ w.extractLsb' 3 5 = 0 ∧ w.extractLsb' 8 4 = 0 ∧ w.extractLsb' 12 19 = 0 ∧
      w.getLsbD 31 = s.dtdFlags.valid)

/-- R37's row of register reads, R15, R20: at every register offset and in every state, a 32-bit host read returns the
register there and changes nothing of EFX; at 0x80 that is CMD and at 0x88 BFX_RES, whole. Where the returned word goes is
log entry 2, the model's choice. -/
def Obligations.RegisterReadsReturnTheRegister : Prop :=
  ∀ s, ReadsAs s 0x80#8 s.cmd ∧ ReadsAs s 0x88#8 s.bfxRes ∧
    ∀ offset : HostOffset, 0x80 ≤ offset.toNat → offset.toNat ≤ 0xAC → offset.toNat % 4 = 0 → ∃ w, ReadsAs s offset w

/-! ### Host accesses -/

/-- R123: an access is refused exactly when it is outside the table of R37. -/
def Obligations.AccessesOutsideTheInterfaceAreRefused : Prop :=
  ∀ a s, (admitted a = false → perform (.access a) s = .refused .hostAccessOutsideInterface) ∧
    (admitted a = true → ∀ r, perform (.access a) s ≠ .refused r)

/-- R38: an 8-bit host write sets one byte of BUF and marks it written; it changes no register and executes no
command. -/
def Obligations.ByteWriteSetsOneByte : Prop :=
  ∀ s (o : HostOffset) (v : Word), o.toNat ≤ 0x7F →
    ∃ t, hostWrite .bits8 o v s = .next t ∧ t = { s with buf := t.buf } ∧
      ∀ a, t.buf.read a = if a = o.toNat then some (BitVec.ofNat 8 v.toNat) else s.buf.read a

/-- R39: an 8-bit host read returns the byte, or faults UnwrittenBuffer where it is unwritten. -/
def Obligations.ByteReadReturnsTheByte : Prop :=
  ∀ s (o : HostOffset), o.toNat ≤ 0x7F →
    (∀ b, s.buf.read o.toNat = some b →
      hostRead .bits8 o s = .next { s with lastRead := some (BitVec.ofNat 32 b.toNat) }) ∧
    (s.buf.read o.toNat = none → hostRead .bits8 o s = .fault .unwrittenBuffer)

/-- R40: 32-bit accesses to BUF are little-endian; a write marks four bytes written and a read of an unwritten byte
faults. -/
def Obligations.WordAccessesToBufAreLittleEndian : Prop :=
  ∀ s (o : HostOffset), o.toNat ≤ 0x7C → o.toNat % 4 = 0 →
    (∀ v : Word, ∃ t, hostWrite .bits32 o v s = .next t ∧ t = { s with buf := t.buf } ∧
      (∀ j, j < 4 → t.buf.read (o.toNat + j) = some (BitVec.ofNat 8 (v.toNat / 256 ^ j))) ∧
      (∀ a, a < o.toNat ∨ o.toNat + 3 < a → t.buf.read a = s.buf.read a) ∧
      hostRead .bits32 o t = .next { t with lastRead := some v }) ∧
    (∀ b0 b1 b2 b3 : Byte, s.buf.read o.toNat = some b0 → s.buf.read (o.toNat + 1) = some b1 →
      s.buf.read (o.toNat + 2) = some b2 → s.buf.read (o.toNat + 3) = some b3 →
      hostRead .bits32 o s = .next { s with lastRead := some (BitVec.ofNat 32
        (((b3.toNat * 256 + b2.toNat) * 256 + b1.toNat) * 256 + b0.toNat)) }) ∧
    ((∃ j, j < 4 ∧ s.buf.read (o.toNat + j) = none) → hostRead .bits32 o s = .fault .unwrittenBuffer)

/-- R41: no host read has a side effect on EFX, and reading again returns the same. -/
def Obligations.HostReadsHaveNoSideEffect : Prop :=
  ∀ width o s t, hostRead width o s = .next t → t = { s with lastRead := t.lastRead } ∧ hostRead width o t = .next t

/-- What R136 derives from R133 and R44: writing BUF is always allowed and never changes a result already in a
register. -/
def Obligations.BufferWritesKeepEveryRegister : Prop :=
  ∀ s (o : HostOffset) (v : Word), o.toNat ≤ 0x7F →
    (∃ t, hostWrite .bits8 o v s = .next t) ∧ (o.toNat % 4 = 0 → ∃ t, hostWrite .bits32 o v s = .next t) ∧
    ∀ width t, hostWrite width o v s = .next t → t = { s with buf := t.buf } ∧ ∀ r, registerWord t r = registerWord s r

/-- With no event still to come EFX waits and nothing changes (R121, R129; log entry 8, the model's reading). -/
def Obligations.WaitingChangesNothing : Prop := ∀ s, s.pending = [] → step s = .next s
end

