-- ==== Sys2Proof/Laws/Memory.lean ====
section
/-! SUPPORT. The laws of the input buffer: what a read sees after a write, and that every memory operation keeps the
canonical form. -/

namespace Sys2Proof.Machine

@[simp] theorem Memory.read_nil (a : Nat) : Memory.read [] a = none := rfl

theorem Memory.read_write_same (m : Memory) (a : Nat) (v : Byte) : (m.write a v).read a = some v := by
  induction m with
  | nil => simp [Memory.write, Memory.read]
  | cons c rest ih =>
    obtain ⟨x, b⟩ := c
    simp only [Memory.write]
    split
    · simp [Memory.read]
    · split
      · simp [Memory.read]
      · rename_i h
        simp [Memory.read, ih, Ne.symm h]

theorem Memory.read_write_other (m : Memory) {a x : Nat} (v : Byte) (h : x ≠ a) :
    (m.write a v).read x = m.read x := by
  induction m with
  | nil => simp [Memory.write, Memory.read, h.symm]
  | cons c rest ih =>
    obtain ⟨y, b⟩ := c
    simp only [Memory.write]
    split
    · simp [Memory.read, h.symm]
    · split
      · rename_i hy
        subst hy
        simp [Memory.read, h.symm]
      · simp [Memory.read, ih]

/-- A write of one byte, as one function of the offset read. -/
theorem Memory.read_write (m : Memory) (a x : Nat) (v : Byte) :
    (m.write a v).read x = if x = a then some v else m.read x := by
  split
  · rename_i h
    rw [h, Memory.read_write_same]
  · exact Memory.read_write_other m v ‹_›

theorem Memory.write_risesFrom (m : Memory) {lo a : Nat} (v : Byte) (h : Memory.risesFrom m lo = true) (ha : lo < a) :
    Memory.risesFrom (m.write a v) lo = true := by
  induction m generalizing lo with
  | nil => simpa [Memory.write, Memory.risesFrom] using ha
  | cons c rest ih =>
    obtain ⟨x, b⟩ := c
    simp only [Memory.risesFrom, Bool.and_eq_true, decide_eq_true_eq] at h
    simp only [Memory.write]
    split
    · simp [Memory.risesFrom, h.2, *]
    · split
      · rename_i hx
        subst hx
        simp [Memory.risesFrom, ha, h.2]
      · simp only [Memory.risesFrom, Bool.and_eq_true, decide_eq_true_eq]
        exact ⟨h.1, ih h.2 (by omega)⟩

theorem Memory.write_all_below (m : Memory) {a : Nat} (v : Byte) {n : Nat} (h : m.all (fun c => decide (c.1 < n)) = true)
    (ha : a < n) : (m.write a v).all (fun c => decide (c.1 < n)) = true := by
  induction m with
  | nil => simpa [Memory.write] using ha
  | cons c rest ih =>
    obtain ⟨x, b⟩ := c
    simp only [List.all_cons, Bool.and_eq_true, decide_eq_true_eq] at h
    simp only [Memory.write]
    split
    · simp only [List.all_cons, Bool.and_eq_true, decide_eq_true_eq]
      exact ⟨ha, h.1, h.2⟩
    · split
      · simp only [List.all_cons, Bool.and_eq_true, decide_eq_true_eq]
        exact ⟨ha, h.2⟩
      · simp only [List.all_cons, Bool.and_eq_true, decide_eq_true_eq]
        exact ⟨h.1, ih h.2⟩

theorem Memory.nil_wf : Memory.wf [] = true := rfl

/-- A write inside BUF keeps the canonical form. -/
theorem Memory.write_wf (m : Memory) {a : Nat} (v : Byte) (h : m.wf = true) (ha : a < Config.bufBytes) :
    (m.write a v).wf = true := by
  simp only [Memory.wf, Bool.and_eq_true] at h ⊢
  refine ⟨?_, Memory.write_all_below m v h.2 ha⟩
  cases m with
  | nil => rfl
  | cons c rest =>
    obtain ⟨x, b⟩ := c
    simp only [Memory.write]
    split
    · simp only [Memory.rises, Memory.risesFrom, Bool.and_eq_true, decide_eq_true_eq]
      exact ⟨‹_›, h.1⟩
    · split
      · rename_i hx
        subst hx
        exact h.1
      · exact Memory.write_risesFrom rest v h.1 (by omega)

theorem State.reset_buf_wf : State.reset.buf.wf = true := rfl

end Sys2Proof.Machine
end

