-- ==== Sys2Proof/Laws/State.lean ====
section
/-! SUPPORT. What each named update does to each field of State, one lemma per field per update. -/

namespace Sys2Proof.Machine

variable (s : State) (e : Error) (d : Fin 18 → Byte)

/-! ### complete -/

@[simp] theorem complete_buf : (complete s).buf = s.buf := rfl
@[simp] theorem complete_cmd : (complete s).cmd = s.cmd := rfl
@[simp] theorem complete_status : (complete s).status = s.status.completed := rfl
@[simp] theorem complete_bfxRes : (complete s).bfxRes = s.bfxRes := rfl
@[simp] theorem complete_clsRes : (complete s).clsRes = s.clsRes := rfl
@[simp] theorem complete_svdRes : (complete s).svdRes = s.svdRes := rfl
@[simp] theorem complete_dtdPclk : (complete s).dtdPclk = s.dtdPclk := rfl
@[simp] theorem complete_dtdH0 : (complete s).dtdH0 = s.dtdH0 := rfl
@[simp] theorem complete_dtdH1 : (complete s).dtdH1 = s.dtdH1 := rfl
@[simp] theorem complete_dtdV0 : (complete s).dtdV0 = s.dtdV0 := rfl
@[simp] theorem complete_dtdV1 : (complete s).dtdV1 = s.dtdV1 := rfl
@[simp] theorem complete_dtdImg : (complete s).dtdImg = s.dtdImg := rfl
@[simp] theorem complete_dtdFlags : (complete s).dtdFlags = s.dtdFlags := rfl
@[simp] theorem complete_knownExtTags : (complete s).knownExtTags = s.knownExtTags := rfl
@[simp] theorem complete_pending : (complete s).pending = s.pending := rfl
@[simp] theorem complete_lastRead : (complete s).lastRead = s.lastRead := rfl

/-! ### raise -/

@[simp] theorem raise_buf : (raise e s).buf = s.buf := rfl
@[simp] theorem raise_cmd : (raise e s).cmd = s.cmd := rfl
@[simp] theorem raise_status : (raise e s).status = s.status.raised e := rfl
@[simp] theorem raise_bfxRes : (raise e s).bfxRes = s.bfxRes := rfl
@[simp] theorem raise_clsRes : (raise e s).clsRes = s.clsRes := rfl
@[simp] theorem raise_svdRes : (raise e s).svdRes = s.svdRes := rfl
@[simp] theorem raise_dtdPclk : (raise e s).dtdPclk = s.dtdPclk := rfl
@[simp] theorem raise_dtdH0 : (raise e s).dtdH0 = s.dtdH0 := rfl
@[simp] theorem raise_dtdH1 : (raise e s).dtdH1 = s.dtdH1 := rfl
@[simp] theorem raise_dtdV0 : (raise e s).dtdV0 = s.dtdV0 := rfl
@[simp] theorem raise_dtdV1 : (raise e s).dtdV1 = s.dtdV1 := rfl
@[simp] theorem raise_dtdImg : (raise e s).dtdImg = s.dtdImg := rfl
@[simp] theorem raise_dtdFlags : (raise e s).dtdFlags = s.dtdFlags := rfl
@[simp] theorem raise_knownExtTags : (raise e s).knownExtTags = s.knownExtTags := rfl
@[simp] theorem raise_pending : (raise e s).pending = s.pending := rfl
@[simp] theorem raise_lastRead : (raise e s).lastRead = s.lastRead := rfl

/-! ### invalidateDtd -/

@[simp] theorem invalidateDtd_buf : (invalidateDtd s).buf = s.buf := rfl
@[simp] theorem invalidateDtd_cmd : (invalidateDtd s).cmd = s.cmd := rfl
@[simp] theorem invalidateDtd_status : (invalidateDtd s).status = s.status := rfl
@[simp] theorem invalidateDtd_bfxRes : (invalidateDtd s).bfxRes = s.bfxRes := rfl
@[simp] theorem invalidateDtd_clsRes : (invalidateDtd s).clsRes = s.clsRes := rfl
@[simp] theorem invalidateDtd_svdRes : (invalidateDtd s).svdRes = s.svdRes := rfl
@[simp] theorem invalidateDtd_dtdPclk : (invalidateDtd s).dtdPclk = s.dtdPclk := rfl
@[simp] theorem invalidateDtd_dtdH0 : (invalidateDtd s).dtdH0 = s.dtdH0 := rfl
@[simp] theorem invalidateDtd_dtdH1 : (invalidateDtd s).dtdH1 = s.dtdH1 := rfl
@[simp] theorem invalidateDtd_dtdV0 : (invalidateDtd s).dtdV0 = s.dtdV0 := rfl
@[simp] theorem invalidateDtd_dtdV1 : (invalidateDtd s).dtdV1 = s.dtdV1 := rfl
@[simp] theorem invalidateDtd_dtdImg : (invalidateDtd s).dtdImg = s.dtdImg := rfl
@[simp] theorem invalidateDtd_dtdFlags : (invalidateDtd s).dtdFlags = { s.dtdFlags with valid := false } := rfl
@[simp] theorem invalidateDtd_knownExtTags : (invalidateDtd s).knownExtTags = s.knownExtTags := rfl
@[simp] theorem invalidateDtd_pending : (invalidateDtd s).pending = s.pending := rfl
@[simp] theorem invalidateDtd_lastRead : (invalidateDtd s).lastRead = s.lastRead := rfl

/-! ### writeTiming -/

@[simp] theorem writeTiming_buf : (writeTiming d s).buf = s.buf := rfl
@[simp] theorem writeTiming_cmd : (writeTiming d s).cmd = s.cmd := rfl
@[simp] theorem writeTiming_status : (writeTiming d s).status = s.status := rfl
@[simp] theorem writeTiming_bfxRes : (writeTiming d s).bfxRes = s.bfxRes := rfl
@[simp] theorem writeTiming_clsRes : (writeTiming d s).clsRes = s.clsRes := rfl
@[simp] theorem writeTiming_svdRes : (writeTiming d s).svdRes = s.svdRes := rfl
@[simp] theorem writeTiming_dtdPclk : (writeTiming d s).dtdPclk = pixelClock d := rfl
@[simp] theorem writeTiming_dtdH0 : (writeTiming d s).dtdH0 = ⟨(d 4).extractLsb' 4 4 ++ d 2, (d 4).extractLsb' 0 4 ++ d 3⟩ := rfl
@[simp] theorem writeTiming_dtdH1 : (writeTiming d s).dtdH1 = ⟨(d 11).extractLsb' 6 2 ++ d 8, (d 11).extractLsb' 4 2 ++ d 9⟩ := rfl
@[simp] theorem writeTiming_dtdV0 : (writeTiming d s).dtdV0 = ⟨(d 7).extractLsb' 4 4 ++ d 5, (d 7).extractLsb' 0 4 ++ d 6⟩ := rfl
@[simp] theorem writeTiming_dtdV1 : (writeTiming d s).dtdV1 = ⟨(d 11).extractLsb' 2 2 ++ (d 10).extractLsb' 4 4, (d 11).extractLsb' 0 2 ++ (d 10).extractLsb' 0 4⟩ := rfl
@[simp] theorem writeTiming_dtdImg : (writeTiming d s).dtdImg = ⟨(d 14).extractLsb' 4 4 ++ d 12, (d 14).extractLsb' 0 4 ++ d 13⟩ := rfl
@[simp] theorem writeTiming_dtdFlags : (writeTiming d s).dtdFlags = ⟨(d 17).getLsbD 7, (d 17).getLsbD 2, (d 17).getLsbD 1, true⟩ := rfl
@[simp] theorem writeTiming_knownExtTags : (writeTiming d s).knownExtTags = s.knownExtTags := rfl
@[simp] theorem writeTiming_pending : (writeTiming d s).pending = s.pending := rfl
@[simp] theorem writeTiming_lastRead : (writeTiming d s).lastRead = s.lastRead := rfl

/-! ### hardwareReset -/

@[simp] theorem hardwareReset_buf : (hardwareReset s).buf = [] := rfl
@[simp] theorem hardwareReset_cmd : (hardwareReset s).cmd = 0 := rfl
@[simp] theorem hardwareReset_status : (hardwareReset s).status = ⟨0, 0⟩ := rfl
@[simp] theorem hardwareReset_bfxRes : (hardwareReset s).bfxRes = 0 := rfl
@[simp] theorem hardwareReset_clsRes : (hardwareReset s).clsRes = ⟨.base, 0, false⟩ := rfl
@[simp] theorem hardwareReset_svdRes : (hardwareReset s).svdRes = ⟨0, false, false, false, false⟩ := rfl
@[simp] theorem hardwareReset_dtdPclk : (hardwareReset s).dtdPclk = 0 := rfl
@[simp] theorem hardwareReset_dtdH0 : (hardwareReset s).dtdH0 = ⟨0, 0⟩ := rfl
@[simp] theorem hardwareReset_dtdH1 : (hardwareReset s).dtdH1 = ⟨0, 0⟩ := rfl
@[simp] theorem hardwareReset_dtdV0 : (hardwareReset s).dtdV0 = ⟨0, 0⟩ := rfl
@[simp] theorem hardwareReset_dtdV1 : (hardwareReset s).dtdV1 = ⟨0, 0⟩ := rfl
@[simp] theorem hardwareReset_dtdImg : (hardwareReset s).dtdImg = ⟨0, 0⟩ := rfl
@[simp] theorem hardwareReset_dtdFlags : (hardwareReset s).dtdFlags = ⟨false, false, false, false⟩ := rfl
@[simp] theorem hardwareReset_knownExtTags : (hardwareReset s).knownExtTags = s.knownExtTags := rfl
@[simp] theorem hardwareReset_pending : (hardwareReset s).pending = s.pending := rfl
@[simp] theorem hardwareReset_lastRead : (hardwareReset s).lastRead = s.lastRead := rfl

/-! ### STATUS -/

variable (st : Status)

@[simp] theorem completed_err : st.completed.err = 0 := rfl
@[simp] theorem completed_sticky : st.completed.sticky = st.sticky := rfl
@[simp] theorem raised_err : (st.raised e).err = e.code := rfl
@[simp] theorem raised_sticky : (st.raised e).sticky = st.sticky ||| (1#10 <<< (e.code.toNat - 1)) := rfl
@[simp] theorem stickyCleared_err : st.stickyCleared.err = st.err := rfl
@[simp] theorem stickyCleared_sticky : st.stickyCleared.sticky = 0 := rfl

end Sys2Proof.Machine
end

