-- ==== Sys2Proof/Laws/Ops.lean ====
section
/-! SUPPORT. One lemma per shared operation that says everything it can do. -/

namespace Sys2Proof.Machine

section
variable {s t : State} {a off : Nat} {k : Byte → Result} {kd : (Fin 18 → Byte) → Result}

theorem withByte_of_read {b : Byte} (h : s.buf.read a = some b) : withByte s a k = k b := by
  simp [withByte, h]

theorem withByte_of_unwritten (h : s.buf.read a = none) : withByte s a k = .fault .unwrittenBuffer := by
  simp [withByte, h]

/-- Reading one byte and going on answers a next state only where the byte is written. -/
theorem withByte_next (h : withByte s a k = .next t) : ∃ b, s.buf.read a = some b ∧ k b = .next t := by
  unfold withByte at h
  split at h
  · exact ⟨_, ‹_›, h⟩
  · cases h

theorem withDescriptor_of_read {d : Fin 18 → Byte} (h : ∀ i : Fin 18, s.buf.read (off + i.val) = some (d i)) :
    withDescriptor s off kd = kd d := by
  have hs : ∀ i : Fin 18, (s.buf.read (off + i.val)).isSome := fun i => by simp [h i]
  simp only [withDescriptor, hs, implies_true, dite_true]
  congr 1
  funext i
  simp [h i]

theorem withDescriptor_of_unwritten (i : Fin 18) (h : s.buf.read (off + i.val) = none) :
    withDescriptor s off kd = .fault .unwrittenBuffer := by
  refine dif_neg fun hs => ?_
  simpa [h] using hs i

/-- Reading a descriptor and going on answers a next state only where all 18 bytes are written. -/
theorem withDescriptor_next (h : withDescriptor s off kd = .next t) :
    ∃ d : Fin 18 → Byte, (∀ i : Fin 18, s.buf.read (off + i.val) = some (d i)) ∧ kd d = .next t := by
  unfold withDescriptor at h
  split at h
  · exact ⟨_, fun i => by simp, h⟩
  · cases h

end

/-- A 32-bit BUF write, as one function of the offset read (R40). -/
theorem read_writeBufWord (m : Memory) (a x : Nat) (v : Word) :
    (writeBufWord a v m).read x =
      if x = a + 3 then some (v.extractLsb' 24 8) else if x = a + 2 then some (v.extractLsb' 16 8)
      else if x = a + 1 then some (v.extractLsb' 8 8) else if x = a then some (v.extractLsb' 0 8) else m.read x := by
  simp only [writeBufWord, Memory.read_write]

theorem writeBufWord_wf {m : Memory} {a : Nat} (v : Word) (h : m.wf = true) (ha : a + 3 < Config.bufBytes) :
    (writeBufWord a v m).wf = true := by
  unfold writeBufWord
  refine Memory.write_wf _ _ (Memory.write_wf _ _ (Memory.write_wf _ _ (Memory.write_wf _ _ h ?_) ?_) ?_) ?_ <;> omega

/-- A host read that answers changes `lastRead` alone. -/
theorem hostRead_next {width : AccessWidth} {offset : HostOffset} {s t : State}
    (h : hostRead width offset s = .next t) : ∃ v, t = { s with lastRead := some v } := by
  cases width <;> simp only [hostRead] at h
  case bits8 =>
    split at h
    · obtain ⟨b, _, hb⟩ := withByte_next h
      simp only [answerRead, Host.Outcome.next.injEq] at hb
      exact ⟨_, hb.symm⟩
    · simp [refuseAccess] at h
  case bits16 => simp [refuseAccess] at h
  case bits32 =>
    split at h
    · simp [refuseAccess] at h
    · split at h
      · obtain ⟨b0, _, h0⟩ := withByte_next h
        obtain ⟨b1, _, h1⟩ := withByte_next h0
        obtain ⟨b2, _, h2⟩ := withByte_next h1
        obtain ⟨b3, _, h3⟩ := withByte_next h2
        simp only [answerRead, Host.Outcome.next.injEq] at h3
        exact ⟨_, h3.symm⟩
      · split at h
        · simp only [answerRead, Host.Outcome.next.injEq] at h
          exact ⟨_, h.symm⟩
        · simp [refuseAccess] at h

/-- A host write that answers wrote one byte of BUF, four bytes of BUF, or ran a command word. -/
theorem hostWrite_next {width : AccessWidth} {offset : HostOffset} {v : Word} {s t : State}
    (h : hostWrite width offset v s = .next t) :
    (offset.toNat < Config.bufBytes ∧ t = { s with buf := s.buf.write offset.toNat (v.extractLsb' 0 8) }) ∨
    (offset.toNat + 3 < Config.bufBytes ∧ t = { s with buf := writeBufWord offset.toNat v s.buf }) ∨
    (width = .bits32 ∧ offset = Config.cmdOffset ∧ runCommandWord v s = .next t) := by
  cases width <;> simp only [hostWrite] at h
  case bits8 =>
    split at h
    · simp only [Host.Outcome.next.injEq] at h
      exact .inl ⟨‹_›, h.symm⟩
    · simp [refuseAccess] at h
  case bits16 => simp [refuseAccess] at h
  case bits32 =>
    split at h
    · simp [refuseAccess] at h
    · split at h
      · simp only [Host.Outcome.next.injEq] at h
        exact .inr (.inl ⟨by simp only [Config.bufBytes] at *; omega, h.symm⟩)
      · split at h
        · exact .inr (.inr ⟨rfl, ‹_›, h⟩)
        · simp [refuseAccess] at h

/-- A command word that answers ran its command, or was illegal and raised IllegalCommand. -/
theorem runCommandWord_next {w : Word} {s t : State} (h : runCommandWord w s = .next t) :
    (∃ i, decode w = .command i ∧ exec i { s with cmd := w } = .next t) ∨
    (∃ why, decode w = .illegal why ∧ t = raise .illegalCommand { s with cmd := w }) := by
  unfold runCommandWord at h
  split at h
  · exact .inl ⟨_, ‹_›, h⟩
  · simp only [Host.Outcome.next.injEq] at h
    exact .inr ⟨_, ‹_›, h.symm⟩

end Sys2Proof.Machine
end

