-- ==== Sys2Proof/Laws/PerInstr.lean ====
section
/-! SUPPORT. The family `Encoding`, per command as text: its assembler line is well-formed (R63) and its word carries its
opcode in bits 31:28 (R49, R50). -/

namespace Sys2Proof.Laws.Encoding

/-- The command is well-formed and its word's OPC is the opcode of R50. -/
def Statement (i : Instr) : Prop := i.wellFormed = true ∧ opcField (encode i) = i.opcode

theorem offsetFits_toNat (o : BitVec 7) : o.toNat ≤ 127 := by have := o.isLt; omega

theorem shiftFits_toNat (o : BitVec 3) : o.toNat ≤ 7 := by have := o.isLt; omega

theorem widthFits_toNat (o : BitVec 4) : o.toNat ≤ 15 := by have := o.isLt; omega

/-- OPC is untouched by the operand fields joined below it. -/
theorem opcField_toNat (w : Word) : (opcField w).toNat = w.toNat / 2 ^ 28 % 16 := by
  simp [opcField, Nat.shiftRight_eq_div_pow]

theorem toNat_append_add {m n : Nat} (hi : BitVec m) (lo : BitVec n) :
    (hi ++ lo).toNat = hi.toNat * 2 ^ n + lo.toNat := by
  rw [BitVec.toNat_append, ← Nat.shiftLeft_add_eq_or_of_lt lo.isLt, Nat.shiftLeft_eq]

theorem nop : Statement .nop := ⟨rfl, by decide⟩

theorem extract (off : Offset) (shift : BitVec 3) (width : BitVec 4) :
    Statement (.extract off shift width) := by
  refine ⟨by simp [Instr.wellFormed, Instr.source, Source.wellFormed, offsetFits_toNat, shiftFits_toNat, widthFits_toNat], BitVec.eq_of_toNat_eq ?_⟩
  have h_off := off.isLt
  have h_shift := shift.isLt
  have h_width := width.isLt
  simp only [opcField_toNat, encode, Instr.opcode, toNat_append_add]
  simp
  omega

theorem concat (hoff : Offset) (hshift : BitVec 3) (hwidth : BitVec 4) (loff : Offset) (lshift : BitVec 3) (lwidth : BitVec 4) :
    Statement (.concat hoff hshift hwidth loff lshift lwidth) := by
  refine ⟨by simp [Instr.wellFormed, Instr.source, Source.wellFormed, offsetFits_toNat, shiftFits_toNat, widthFits_toNat], BitVec.eq_of_toNat_eq ?_⟩
  have h_hoff := hoff.isLt
  have h_hshift := hshift.isLt
  have h_hwidth := hwidth.isLt
  have h_loff := loff.isLt
  have h_lshift := lshift.isLt
  have h_lwidth := lwidth.isLt
  simp only [opcField_toNat, encode, Instr.opcode, toNat_append_add]
  simp
  omega

theorem word (hoff : Offset) (loff : Offset) :
    Statement (.word hoff loff) := by
  refine ⟨by simp [Instr.wellFormed, Instr.source, Source.wellFormed, offsetFits_toNat], BitVec.eq_of_toNat_eq ?_⟩
  have h_hoff := hoff.isLt
  have h_loff := loff.isLt
  simp only [opcField_toNat, encode, Instr.opcode, toNat_append_add]
  simp
  omega

theorem dword (b3 : Offset) (b2 : Offset) (b1 : Offset) (b0 : Offset) :
    Statement (.dword b3 b2 b1 b0) := by
  refine ⟨by simp [Instr.wellFormed, Instr.source, Source.wellFormed, offsetFits_toNat], BitVec.eq_of_toNat_eq ?_⟩
  have h_b3 := b3.isLt
  have h_b2 := b2.isLt
  have h_b1 := b1.isLt
  have h_b0 := b0.isLt
  simp only [opcField_toNat, encode, Instr.opcode, toNat_append_add]
  simp
  omega

theorem classify : Statement .classify := ⟨rfl, by decide⟩

theorem svdParse (off : Offset) :
    Statement (.svdParse off) := by
  refine ⟨by simp [Instr.wellFormed, Instr.source, Source.wellFormed, offsetFits_toNat], BitVec.eq_of_toNat_eq ?_⟩
  have h_off := off.isLt
  simp only [opcField_toNat, encode, Instr.opcode, toNat_append_add]
  simp
  omega

theorem svdMark (sel : Flag420) (code : BitVec 7) :
    Statement (.svdMark sel code) := by
  refine ⟨by simp [Instr.wellFormed, Instr.source, Source.wellFormed, offsetFits_toNat], BitVec.eq_of_toNat_eq ?_⟩
  have hsel := (selOfFlag sel).isLt
  have h_code := code.isLt
  simp only [opcField_toNat, encode, Instr.opcode, toNat_append_add]
  simp
  omega

theorem dtdDecode (off : Offset) :
    Statement (.dtdDecode off) := by
  refine ⟨by simp [Instr.wellFormed, Instr.source, Source.wellFormed, offsetFits_toNat], BitVec.eq_of_toNat_eq ?_⟩
  have h_off := off.isLt
  simp only [opcField_toNat, encode, Instr.opcode, toNat_append_add]
  simp
  omega

theorem clrstat : Statement .clrstat := ⟨rfl, by decide⟩

end Sys2Proof.Laws.Encoding
end

