-- ==== Sys2Proof/Laws/Step.lean ====
section
/-! SUPPORT. Everything a step can do, said once, the induction over runs, packaged once, and what a host statement is. -/

namespace Sys2Proof.Machine

/-- A step that answers a next state waited, reset EFX, answered a read, wrote BUF, ran a command, or refused an illegal
command word with IllegalCommand. -/
theorem step_cases {s t : State} (h : step s = .next t) :
    (s.pending = [] ∧ t = s) ∨
    ∃ rest,
      (s.pending = .reset :: rest ∧ t = hardwareReset { s with pending := rest }) ∨
      (∃ width offset v, s.pending = .access (.read width offset) :: rest ∧
        t = { s with pending := rest, lastRead := some v }) ∨
      (∃ width offset v, s.pending = .access (.write width offset v) :: rest ∧ offset.toNat < Config.bufBytes ∧
        t = { s with pending := rest, buf := s.buf.write offset.toNat (v.extractLsb' 0 8) }) ∨
      (∃ width offset v, s.pending = .access (.write width offset v) :: rest ∧ offset.toNat + 3 < Config.bufBytes ∧
        t = { s with pending := rest, buf := writeBufWord offset.toNat v s.buf }) ∨
      (∃ w i, s.pending = cmdWrite w :: rest ∧ decode w = .command i ∧
        exec i { s with pending := rest, cmd := w } = .next t) ∨
      (∃ w why, s.pending = cmdWrite w :: rest ∧ decode w = .illegal why ∧
        t = raise .illegalCommand { s with pending := rest, cmd := w }) := by
  unfold step advance at h
  split at h
  · rename_i hp
    simp only [Host.Outcome.next.injEq] at h
    exact .inl ⟨hp, h.symm⟩
  · rename_i e rest hp
    refine .inr ⟨rest, ?_⟩
    match e, h with
    | .reset, h =>
      simp only [perform, Host.Outcome.next.injEq] at h
      exact .inl ⟨hp, h.symm⟩
    | .access (.read width offset), h =>
      obtain ⟨v, hv⟩ := hostRead_next (by simpa only [perform] using h)
      exact .inr (.inl ⟨width, offset, v, hp, hv⟩)
    | .access (.write width offset v), h =>
      obtain ⟨ho, ht⟩ | ⟨ho, ht⟩ | ⟨hw, ho, hr⟩ := hostWrite_next (by simpa only [perform] using h)
      · exact .inr (.inr (.inl ⟨width, offset, v, hp, ho, ht⟩))
      · exact .inr (.inr (.inr (.inl ⟨width, offset, v, hp, ho, ht⟩)))
      · subst hw ho
        obtain ⟨i, hd, hx⟩ | ⟨why, hd, hx⟩ := runCommandWord_next hr
        · exact .inr (.inr (.inr (.inr (.inl ⟨v, i, hp, hd, hx⟩))))
        · exact .inr (.inr (.inr (.inr (.inr ⟨v, why, hp, hd, hx⟩))))

/-- What holds of a state and is kept by every step holds along every run. -/
theorem run_keeps {P : State → Prop} (hstep : ∀ s t, P s → step s = .next t → P t) {k : Nat} {s t : State} (hs : P s)
    (h : core.run k s = .next t) : P t := by
  induction k generalizing s with
  | zero =>
    cases h
    exact hs
  | succ k ih =>
    simp only [Host.Core.run] at h
    split at h
    · exact ih (hstep _ _ hs ‹_›) h
    · cases h
    · cases h

/-- A `wb` statement is the admitted 8-bit write at its own offset, never at a truncated one. -/
theorem stmtWb_eq_some {a : Nat} {v : Byte} {e : HostEvent} (h : stmtWb a v = some e) :
    ∃ o : HostOffset, o.toNat = a ∧ e = .access (.write .bits8 o (v.setWidth 32)) ∧
      admitted (.write .bits8 o (v.setWidth 32)) = true := by
  simp only [stmtWb, Option.ite_none_right_eq_some, Option.some.injEq] at h
  have ha : (BitVec.ofNat 8 a).toNat = a := Nat.mod_eq_of_lt (by omega)
  exact ⟨_, ha, h.2.symm, by simp only [admitted, ha, h.1, decide_true]⟩

/-- A `ww` statement is the 32-bit write of four BUF bytes at its own offset: it never reaches CMD. -/
theorem stmtWw_eq_some {a : Nat} {v : Word} {e : HostEvent} (h : stmtWw a v = some e) :
    ∃ o : HostOffset, o.toNat = a ∧ e = .access (.write .bits32 o v) ∧ o.toNat ≤ 0x7C ∧ o.toNat % 4 = 0 := by
  simp only [stmtWw, Option.ite_none_right_eq_some, Option.some.injEq] at h
  have ha : (BitVec.ofNat 8 a).toNat = a := Nat.mod_eq_of_lt (by omega)
  exact ⟨_, ha, h.2.symm, by omega, by omega⟩

/-- An `rd` statement is the 32-bit read at its own offset. -/
theorem stmtRd_eq_some {a : Nat} {e : HostEvent} (h : stmtRd a = some e) :
    ∃ o : HostOffset, o.toNat = a ∧ e = .access (.read .bits32 o) := by
  simp only [stmtRd, Option.ite_none_right_eq_some, Option.some.injEq] at h
  exact ⟨_, Nat.mod_eq_of_lt (by omega), h.2.symm⟩

/-- An `rdb` statement is the admitted 8-bit read at its own offset. -/
theorem stmtRdb_eq_some {a : Nat} {e : HostEvent} (h : stmtRdb a = some e) :
    ∃ o : HostOffset, o.toNat = a ∧ e = .access (.read .bits8 o) ∧ admitted (.read .bits8 o) = true := by
  simp only [stmtRdb, Option.ite_none_right_eq_some, Option.some.injEq] at h
  have ha : (BitVec.ofNat 8 a).toNat = a := Nat.mod_eq_of_lt (by omega)
  exact ⟨_, ha, h.2.symm, by simp only [admitted, ha, h.1, decide_true]⟩

end Sys2Proof.Machine
end

