-- ==== Sys2Proof/Tests/Slice0.lean ====
section
/-! SUPPORT. Tests: expected values from the spec's words written out bit by bit, its encoding table (R66) and its vectors
(95_test_vectors.md), each named in the test's comment; and, for every statement with hypotheses, a state and operands
that meet them. -/

namespace Sys2Proof.Tests

open Sys2Proof.Machine

/-- A field of the next state, where there is one. -/
def fieldAfter {α : Type} (r : Result) (f : State → α) : Option α :=
  match r with
  | .next t => some (f t)
  | .fault _ => none
  | .refused _ => none

/-- The stop of an outcome, where there is one. -/
def stopOf (r : Result) : Option (Fault ⊕ Refusal) :=
  match r with
  | .next _ => none
  | .fault f => some (.inl f)
  | .refused x => some (.inr x)

/-- A computed field gives the next state it was read from. -/
theorem next_of_fieldAfter {α : Type} {r : Result} {f : State → α} {v : α} (h : fieldAfter r f = some v) :
    ∃ t, r = .next t ∧ f t = v := by
  unfold fieldAfter at h
  split at h <;> simp_all

/-- Consecutive bytes as buffer entries. -/
def cells : Nat → List Byte → Memory
  | _, [] => []
  | a, b :: rest => (a, b) :: cells (a + 1) rest

/-- The reset state with a buffer. -/
def withBuf (m : Memory) : State := { State.reset with buf := m }

/-- A few bytes of the vectors of sections 2.1 to 2.5. -/
def small : State := withBuf [(0, 0x02), (4, 0x43), (5, 0x90), (7, 0xFF), (56, 0x80), (58, 0x71)]

/-- The 1080p60 descriptor of T-D1. -/
def timing : List Byte :=
  [0x02, 0x3A, 0x80, 0x18, 0x71, 0x38, 0x2D, 0x40, 0x58, 0x2C, 0x45, 0x00, 0xC4, 0x8E, 0x21, 0x00, 0x00, 0x1E]

/-- T-D1: the descriptor at offset 54. -/
def atSlot : State := withBuf (cells 54 timing)

/-- T-D17: the descriptor at the last legal offset. -/
def atEnd : State := withBuf (cells 110 timing)

/-- A state with one event to come. -/
def pending (e : HostEvent) (s : State) : State := { s with pending := [e] }

/-! ### Well-formedness: each check refuses an ill-formed line (R63, R64) -/

theorem test_offset_128_refused : (Source.extract 128 0 8).wellFormed = false := by decide
theorem test_shift_8_refused : (Source.extract 4 8 0).wellFormed = false := by decide
theorem test_width_16_refused : (Source.extract 4 0 16).wellFormed = false := by decide
theorem test_width_9_accepted : (Source.extract 4 0 9).wellFormed = true := by decide
theorem test_concat_low_shift_8_refused : (Source.concat 58 4 4 56 8 8).wellFormed = false := by decide
theorem test_word_offset_128_refused : (Source.word 4 128).wellFormed = false := by decide
theorem test_dword_offset_128_refused : (Source.dword 0 10 9 128).wellFormed = false := by decide
theorem test_code_128_refused : (Source.svdMark .ycc420 128).wellFormed = false := by decide
theorem test_dtd_offset_128_refused : (Source.dtdDecode 128).wellFormed = false := by decide
theorem test_svd_offset_128_refused : (Source.svdParse 128).wellFormed = false := by decide
theorem test_bit_8_refused : (Source.bit 4 8).wellFormed = false := by decide
theorem test_wordle_127_refused : (Source.wordle 127).wellFormed = false := by decide
theorem test_wordbe_127_refused : (Source.wordbe 127).wellFormed = false := by decide
theorem test_dwordle_125_refused : (Source.dwordle 125).wellFormed = false := by decide
theorem test_ill_formed_line_has_no_encoding : assemble (.extract 4 8 0) = none := by decide
theorem test_dbtag_expands : assemble (.dbtag 4) = some (.extract 4 5 3) := by decide
theorem test_dwordle_expands : assemble (.dwordle 8) = some (.dword 11 10 9 8) := by decide

/-! ### Decoding: words written out from the format tables of R49, upper field first -/

theorem test_decode_nop : decode 0b0000_0000000000000000000000000000#32 = .command .nop := by decide
theorem test_decode_extract : -- OPC, reserved 14, WIDTH 3, SHIFT 5, OFF 4 (T-X1)
    decode 0b0001_00000000000000_0011_101_0000100#32 = .command (.extract 4 5 3) := by decide
theorem test_decode_concat : -- OPC, LW 8, LSH 0, LOFF 56, HW 4, HSH 4, HOFF 58 (T-C1)
    decode 0b0010_1000_000_0111000_0100_100_0111010#32 = .command (.concat 58 4 4 56 0 8) := by decide
theorem test_decode_word : -- OPC, reserved 14, LOFF 5, HOFF 4 (T-W1)
    decode 0b0011_00000000000000_0000101_0000100#32 = .command (.word 4 5) := by decide
theorem test_decode_dword : -- OPC, B0 8, B1 9, B2 10, B3 0 (T-D1w)
    decode 0b0100_0001000_0001001_0001010_0000000#32 = .command (.dword 0 10 9 8) := by decide
theorem test_decode_classify : decode 0b0101_0000000000000000000000000000#32 = .command .classify := by decide
theorem test_decode_svdParse : -- OPC, reserved 21, OFF 5
    decode 0b0110_000000000000000000000_0000101#32 = .command (.svdParse 5) := by decide
theorem test_decode_svdMark_ycc : -- OPC, reserved 20, SEL 1, CODE 16 (T-S10)
    decode 0b0111_00000000000000000000_1_0010000#32 = .command (.svdMark .ycc420 16) := by decide
theorem test_decode_svdMark_lim : -- OPC, reserved 20, SEL 0, CODE 4 (T-S11)
    decode 0b0111_00000000000000000000_0_0000100#32 = .command (.svdMark .lim420 4) := by decide
theorem test_decode_dtdDecode : -- OPC, reserved 21, OFF 110 (T-D17)
    decode 0b1000_000000000000000000000_1101110#32 = .command (.dtdDecode 110) := by decide
theorem test_decode_clrstat : decode 0b1111_0000000000000000000000000000#32 = .command .clrstat := by decide
theorem test_decode_reserved_bits : -- T-X14, T-W4, T-S15, T-S16, T-D18, T-N2, T-N4
    [0x10006007#32, 0x30004387#32, 0x70000104#32, 0x60000085#32, 0x800000B6#32, 0x00000001#32, 0xF0000100#32].all
      (fun w => decode w = .illegal .reservedBits) = true := by decide
theorem test_decode_reserved_opcodes : -- T-N5, T-N6, T-N7
    [0x90000000#32, 0xE0000000#32, 0xAFFFFFFF#32].all (fun w => decode w = .illegal .reservedOpcode) = true := by decide
theorem test_table_word_runs_first :
    (fieldAfter (step (State.reset.withFetchWord 32 0xF0000000)) (·.cmd)) = some 0xF0000000#32 := by decide

/-! ### The commands, at most two vectors each -/

theorem test_nop_keeps_sticky : -- T-N1
    fieldAfter (exec .nop { State.reset with status := ⟨9, 0b0100000000⟩ }) (·.status.word) = some 0x02000000 := by decide
theorem test_clrstat_clears : -- T-N3
    fieldAfter (exec .clrstat { State.reset with status := ⟨9, 0b0100000100⟩ }) (·.status.word) = some 0 := by decide
theorem test_extract_top_field : fieldAfter (exec (.extract 7 6 2) small) (·.bfxRes) = some 3 := by decide -- T-X9
theorem test_extract_breach : -- T-X10
    fieldAfter (exec (.extract 7 7 2) small) (fun t => (t.bfxRes, t.status.word)) = some (0, 0x02000009) := by decide
theorem test_concat_hactive : -- T-C1
    fieldAfter (exec (.concat 58 4 4 56 0 8) small) (·.bfxRes) = some 0x00000780 := by decide
theorem test_concat_low_breach : -- T-C8
    fieldAfter (exec (.concat 58 4 4 56 1 8) small) (·.status.word) = some 0x02000009 := by decide
theorem test_word_order : -- T-W2
    fieldAfter (exec (.word 55 54) atSlot) (·.bfxRes) = some 0x00003A02 := by decide
theorem test_dword_order : -- T-D2w
    fieldAfter (exec (.dword 8 9 10 0) (withBuf [(0, 0x00), (8, 0xD8), (9, 0x5D), (10, 0xC4)])) (·.bfxRes)
      = some 0xD85DC400 := by decide
theorem test_classify_default_tags : -- T-K1 to T-K11
    [(0x00, 0x80000000), (0x01, 0x80000103), (0x02, 0x80000201), (0x03, 0x80000303), (0x10, 0x80001002),
      (0x40, 0x80004002), (0x50, 0x80005002), (0x60, 0x80006002), (0x70, 0x80007003), (0xF0, 0x8000F003),
      (0xFF, 0x8000FF03)].all (fun (p : Byte × Word) =>
        fieldAfter (exec .classify (withBuf [(0, p.1)])) (·.clsRes.word) = some p.2) = true := by decide
theorem test_classify_unsupported_status : -- T-K9
    fieldAfter (exec .classify (withBuf [(0, 0x70)])) (·.status.word) = some 0x00080003 := by decide
theorem test_svdParse_all_ones : -- T-S7
    fieldAfter (exec (.svdParse 7) small) (·.svdRes.word) = some 0x800000FF := by decide
theorem test_svdMark_match_ignores_native : -- T-S10
    fieldAfter (exec (.svdMark .ycc420 16) { State.reset with svdRes := ⟨16, true, false, false, true⟩ })
      (·.svdRes.word) = some 0x80000290 := by decide
theorem test_svdMark_invalid_record : -- T-S9
    fieldAfter (exec (.svdMark .lim420 0) State.reset) (·.svdRes.word) = some 0 := by decide
theorem test_dtd_1080p60 : -- T-D17
    fieldAfter (exec (.dtdDecode 110) atEnd) (fun t => (dtdPclkWord t.dtdPclk, t.dtdH0.word, t.dtdH1.word, t.dtdV0.word,
      t.dtdV1.word, t.dtdImg.word, t.dtdFlags.word))
      = some (0x00003A02, 0x01180780, 0x002C0058, 0x002D0438, 0x00050004, 0x018E02C4, 0x80000006) := by decide
theorem test_dtd_byte_11 : -- T-D7
    fieldAfter (exec (.dtdDecode 0) (withBuf (cells 0 [0x02, 0x3A, 0, 0, 0, 0, 0, 0, 0, 0, 0, 0xE4, 0, 0, 0, 0, 0, 0x18])))
      (fun t => (t.dtdH1.word, t.dtdV1.word)) = some (0x02000300, 0x00000010) := by decide

/-! ### Host accesses (section 2.8) and the illegal word -/

theorem test_ww_little_endian : -- T-H1
    fieldAfter (hostWrite .bits32 0x00 0x00FFFF00 State.reset) (fun t => (t.buf.read 0, t.buf.read 1, t.buf.read 3))
      = some (some 0x00, some 0xFF, some 0x00) := by decide
theorem test_rd_little_endian : -- T-H2
    fieldAfter (hostRead .bits32 0x04 (withBuf (cells 4 [0x12, 0x34, 0x56, 0x78]))) (·.lastRead)
      = some (some 0x78563412) := by decide
theorem test_rd_bfx_res : -- T-C1, then `rd 0x88` (R65)
    fieldAfter (hostRead .bits32 0x88 { small with bfxRes := 0x00000780 }) (·.lastRead) = some (some 0x00000780) := by decide
theorem test_step_writes_buf : -- T-H1 as a step
    fieldAfter (step (pending (.access (.write .bits32 0x00 0x00FFFF00)) State.reset)) (·.buf.read 1) = some (some 0xFF) := by
  decide
theorem test_unwritten_host_read_faults : -- T-H3
    stopOf (hostRead .bits8 0x10 State.reset) = some (.inl .unwrittenBuffer) := by decide
theorem test_unwritten_dtd_faults : -- T-H4
    stopOf (exec (.dtdDecode 54) State.reset) = some (.inl .unwrittenBuffer) := by decide
theorem test_outside_interface_refused : -- T-H5, T-H6, T-H7
    [HostAccess.read .bits32 0x02, .write .bits32 0x84 0, .read .bits32 0xB0].all (fun a =>
      stopOf (perform (.access a) State.reset) = some (.inr .hostAccessOutsideInterface)) = true := by decide
theorem test_statements_outside_their_bounds : -- R65's bounds, just passed
    stmtWb 0x80 1 = none ∧ stmtWb 0x100 1 = none ∧ stmtWw 0x80 0 = none ∧ stmtWw 0x7E 0 = none ∧ stmtRdb 0x80 = none ∧
      stmtRd 0x100 = none ∧ stmtBytes 0x7F [1, 2] = none := by decide
theorem test_statements_inside_their_bounds :
    stmtWw 0x7C 1 = some (.access (.write .bits32 0x7C#8 1)) ∧ stmtRd 0xAC = some (.access (.read .bits32 0xAC#8)) ∧
      stmtBytes 0x7E [1, 2] = some [.access (.write .bits8 0x7E#8 1), .access (.write .bits8 0x7F#8 2)] := by decide
theorem test_illegal_clrstat : -- T-N4
    fieldAfter (runCommandWord 0xF0000100 { State.reset with status := ⟨9, 0b0100000100⟩ }) (·.status.word)
      = some 0x03080008 := by decide
theorem test_illegal_dtd_keeps_valid : -- T-D18
    fieldAfter (runCommandWord 0x800000B6 { State.reset with dtdFlags := ⟨false, true, true, true⟩ })
      (fun t => (t.dtdFlags.word, t.status.word)) = some (0x80000006, 0x01000008) := by decide
theorem test_memory_wf_refuses_unsorted : Memory.wf [(4, 0x43), (0, 0x02)] = false := by decide
theorem test_memory_wf_refuses_repeat : Memory.wf [(4, 0x43), (4, 0x02)] = false := by decide
theorem test_memory_wf_refuses_outside : Memory.wf [(128, 0x43)] = false := by decide

/-! ### Witnesses: states and operands that meet the hypotheses of the statements -/

theorem witness_ResetEventResetsInOneStep : ∃ s : State, ∃ rest, s.pending = .reset :: rest :=
  ⟨pending .reset small, _, rfl⟩

/-- A state the invariant allows and a step from it: the 1080p60 descriptor decoded. -/
theorem witness_StepKeepsTheInvariant :
    (pending (stmtCmd (.dtdDecode 54)) atSlot).Inv ∧ ∃ t, step (pending (stmtCmd (.dtdDecode 54)) atSlot) = .next t := by
  refine ⟨by decide, ?_⟩
  obtain ⟨t, h, _⟩ := next_of_fieldAfter
    (show fieldAfter (step (pending (stmtCmd (.dtdDecode 54)) atSlot)) (·.dtdPclk) = some 0x3A02 by decide)
  exact ⟨t, h⟩

/-- The invariant is no tautology: a zero clock in a valid record breaks it. -/
theorem invariant_refuses_zero_clock :
    ¬ ({ State.reset with dtdFlags := ⟨false, false, false, true⟩ } : State).Inv := by decide

theorem witness_StepKeepsBufferCanonical :
    stmtWb 0x7F 1 = some (.access (.write .bits8 0x7F#8 1)) ∧
    (pending (.access (.write .bits8 0x7F#8 1)) small).buf.wf = true ∧
    ∃ t, step (pending (.access (.write .bits8 0x7F#8 1)) small) = .next t :=
  ⟨rfl, by decide, _, rfl⟩

theorem witness_DecodeOfEncodeIsTheCommand : (Instr.concat 127 7 15 127 7 15).wellFormed = true := by decide

theorem witness_EncodeOfDecodeIsTheWord : ∃ i, decode 0x2FFFFFFF#32 = .command i := ⟨_, rfl⟩

theorem witness_AssemblerInvertsTheCommandLines :
    (Source.extract 127 7 15).isCommand = true ∧ assemble (.extract 127 7 15) = some (.extract 127 7 15) := by decide

/-- A state for each clause: a decodable word, an illegal one, a read, a BUF write, and the reset input. -/
theorem witness_StepRunsTheDecodedCommand :
    ((pending (stmtCmd .classify) small).pending = [.access (.write .bits32 0x80#8 0x50000000#32)] ∧
      decode 0x50000000#32 = .command .classify) ∧
    ((pending (cmdWrite 0xE0000000) small).pending = [.access (.write .bits32 0x80#8 0xE0000000#32)] ∧
      decode 0xE0000000#32 = .illegal .reservedOpcode) ∧
    (pending (.access (.read .bits8 0x7F#8)) small).pending = [.access (.read .bits8 0x7F#8)] ∧
    (pending (.access (.write .bits32 0x7C#8 1)) small).pending = [.access (.write .bits32 0x7C#8 1)] ∧
    (pending .reset small).pending = [.reset] := by decide

theorem witness_IllegalWordRaisesIllegalCommand :
    illegalWord 0xE0000000#32 = true ∧ illegalWord 0x80000080#32 = true ∧ illegalWord 0x8000007F#32 = false := by decide

theorem witness_CmdWriteStoresAndRunsTheWord :
    ∃ t, hostWrite .bits32 0x80#8 0x50000000#32 small = .next t ∧ decode 0x50000000#32 = .command .classify := by
  obtain ⟨t, h, _⟩ := next_of_fieldAfter
    (show fieldAfter (hostWrite .bits32 0x80#8 0x50000000#32 small) (·.cmd) = some 0x50000000#32 by decide)
  exact ⟨t, h, by decide⟩

theorem witness_RaiseAndCompleteWriteStatus :
    (Error.outOfRange, 10) ∈ [(Error.unsupportedBlock, 3), (.invalidPixelClock, 5), (.invalidSyncType, 6),
      (.illegalCommand, 8), (.fieldContract, 9), (.outOfRange, 10)] := by decide

/-- `STICKY[9]` is set by a breach and cleared by CLRSTAT and by reset. -/
theorem witness_StickyBits :
    (∃ t, step (pending (stmtCmd (.extract 4 0 9)) small) = .next t ∧
      (small.status.stickyBit 9, t.status.stickyBit 9) = (false, true)) ∧
    (∃ t, step (pending (stmtCmd .clrstat) { small with status := ⟨9, 0b0100000000⟩ }) = .next t ∧
      t.status.stickyBit 9 = false) ∧
    ∃ t, step (pending .reset { small with status := ⟨9, 0b0100000000⟩ }) = .next t ∧ t.status.stickyBit 9 = false := by
  refine ⟨?_, ?_, ?_⟩ <;> apply next_of_fieldAfter <;> decide

theorem witness_UnwrittenBufferOffsets : (0x7F#8).toNat ≤ 0x7F ∧ (0x7C#8).toNat ≤ 0x7C ∧ (0x7C#8).toNat % 4 = 0 := by decide

theorem witness_CommandsReadOnlyTheirNamedBytes :
    (∀ a ∈ commandReads (.word 4 5), Memory.read [(4, 0x43), (5, 0x90)] a = small.buf.read a) ∧
    (∀ a ∈ commandReads (.dtdDecode 111), Memory.read [] a = small.buf.read a) ∧
    commandReads (.dtdDecode 111) = [] := by decide

theorem witness_ResultRegisters :
    (∃ t, exec (.extract 4 5 3) small = .next t ∧ t.bfxRes ≠ small.bfxRes) ∧
    (∃ t, exec .classify small = .next t ∧ t.clsRes ≠ small.clsRes) ∧
    (∃ t, exec (.svdParse 5) small = .next t ∧ t.svdRes ≠ small.svdRes) ∧
    ∃ t, exec (.svdMark .lim420 16) { small with svdRes := ⟨16, true, false, false, true⟩ } = .next t ∧
      t.svdRes ≠ ⟨16, true, false, false, true⟩ := by
  refine ⟨⟨_, rfl, by decide⟩, ⟨_, rfl, by decide⟩, ⟨_, rfl, by decide⟩, ⟨_, rfl, by decide⟩⟩

theorem witness_BfxResultIsAFunctionOfTheNamedBytes :
    (Instr.word 4 5).isBfx = true ∧
    (∀ a ∈ commandReads (.word 4 5), (withBuf [(4, 0x43), (5, 0x90)]).buf.read a = small.buf.read a) ∧
    (∃ t, exec (.word 4 5) small = .next t ∧ t.status.err = 0) ∧
    ∃ t, exec (.extract 4 0 15) small = .next t ∧ t.status.err ≠ 0 := by
  refine ⟨rfl, by decide, ⟨_, rfl, by decide⟩, ⟨_, rfl, by decide⟩⟩

/-- The contract at its bounds: a field that ends at bit 7, one that passes it, and the widest width. -/
theorem witness_ExtractTakesTheField :
    ((2#4).toNat ≤ 8 ∧ (6#3).toNat + (2#4).toNat ≤ 8 ∧ small.buf.read (7#7).toNat = some 0xFF) ∧
    (7#3).toNat + (2#4).toNat > 8 ∧ (9#4).toNat > 8 ∧
    ((0x10004000#32).toNat / 2 ^ 28 = 1 ∧ (0x10004000#32).toNat / 2 ^ 14 % 2 ^ 14 ≠ 0) := by decide

theorem witness_ConcatJoinsTwoFields :
    ((8#4).toNat ≤ 8 ∧ (0#3).toNat + (8#4).toNat ≤ 8 ∧ (4#3).toNat + (4#4).toNat ≤ 8 ∧
      small.buf.read (58#7).toNat = some 0x71 ∧ small.buf.read (56#7).toNat = some 0x80) ∧
    (5#3).toNat + (4#4).toNat > 8 ∧ (0x2FFFFFFF#32).toNat / 2 ^ 28 = 2 := by decide

theorem witness_ConcatCornerCases :
    (∃ t, exec (.concat 7 0 8 7 0 8) small = .next t ∧ t.status.err = 0 ∧ t.bfxRes.toNat = 0xFFFF) ∧
    small.buf.read (56#7).toNat = some 0x80 := ⟨⟨_, rfl, by decide⟩, by decide⟩

theorem witness_WordAndDword :
    small.buf.read (4#7).toNat = some 0x43 ∧ small.buf.read (5#7).toNat = some 0x90 ∧
    small.buf.read (7#7).toNat = some 0xFF ∧ small.buf.read (0#7).toNat = some 0x02 ∧
    ((0x30004000#32).toNat / 2 ^ 28 = 3 ∧ (0x30004000#32).toNat / 2 ^ 14 % 2 ^ 14 ≠ 0) ∧
    (0x4FFFFFFF#32).toNat / 2 ^ 28 = 4 := by decide

theorem witness_BfxResultsAreBounded :
    (∃ t, exec (.extract 7 0 8) small = .next t ∧ t.status.err = 0) ∧ ∃ t, exec (.word 7 7) small = .next t :=
  ⟨⟨_, rfl, by decide⟩, _, rfl⟩

/-- A tag of each class, and a word of CLASSIFY with a reserved bit. -/
theorem witness_ClassifyDecidesFromTheTagByte :
    ((withBuf [(0, 0x00)]).buf.read 0 = some 0x00 ∧ (withBuf [(0, 0x02)]).buf.read 0 = some 0x02 ∧
      (withBuf [(0, 0x10)]).buf.read 0 = some 0x10 ∧ (0x10#8 : Byte) ∈ (withBuf [(0, 0x10)]).knownExtTags) ∧
    ((0x50000001#32).toNat / 2 ^ 28 = 5 ∧ (0x50000001#32).toNat % 2 ^ 28 ≠ 0) := by decide

theorem witness_UnsupportedTagStillWritesClsRes :
    (withBuf [(0, 0x70)]).buf.read 0 = some 0x70 ∧ (0x70#8 : Byte) ≠ 0x00#8 ∧ (0x70#8 : Byte) ≠ 0x02#8 ∧
    (0x70#8 : Byte) ∉ (withBuf [(0, 0x70)]).knownExtTags := by decide

theorem witness_KnownTagSetDecidesOnlyClassTwoOrThree :
    (∃ t, exec .classify (withBuf [(0, 0x70)]) = .next t ∧ t.clsRes.tag = 0x70#8) ∧
    (∃ t, exec .classify { withBuf [(0, 0x70)] with knownExtTags := [0x70] } = .next t ∧ t.clsRes.cls = .otherKnown) ∧
    ∃ t, exec .classify small = .next t ∧ t.clsRes.tag = 0x02#8 := by
  refine ⟨?_, ?_, ?_⟩ <;> apply next_of_fieldAfter <;> decide

theorem witness_SvdParseWritesTheWholeRecord :
    small.buf.read (5#7).toNat = some 0x90 ∧
    ((0x60000080#32).toNat / 2 ^ 28 = 6 ∧ (0x60000080#32).toNat / 2 ^ 7 % 2 ^ 21 ≠ 0) := by decide

theorem witness_SvdMark :
    (∃ t, exec (.svdMark .lim420 16) { small with svdRes := ⟨16, true, false, true, true⟩ } = .next t ∧
      t.svdRes = ⟨16, true, true, true, true⟩) ∧
    (∃ t, exec (.svdMark .lim420 0) State.reset = .next t ∧ t.svdRes = State.reset.svdRes) ∧
    ((0x70000100#32).toNat / 2 ^ 28 = 7 ∧ (0x70000100#32).toNat / 2 ^ 8 % 2 ^ 20 ≠ 0) := by
  refine ⟨⟨_, rfl, by decide⟩, ⟨_, rfl, by decide⟩, by decide⟩

/-- The frames of CLASSIFY, SVD_PARSE and SVD_MARK have next states. -/
theorem witness_ClsAndSvdFrame :
    (∃ t, exec .classify small = .next t) ∧ (∃ t, exec (.svdParse 5) small = .next t) ∧
    ∃ t, exec (.svdMark .ycc420 127) small = .next t := ⟨⟨_, rfl⟩, ⟨_, rfl⟩, ⟨_, rfl⟩⟩

/-- The bytes of a list as a descriptor. -/
def bytesOf (l : List Byte) (i : Fin 18) : Byte := l.getD i.val 0

/-- The last legal window, its checks passed. -/
theorem witness_DtdDecodeWritesTheSevenRegisters :
    (110#7).toNat ≤ 110 ∧ DescriptorAt atEnd 110 (bytesOf timing) ∧
    (bytesOf timing 1).toNat * 256 + (bytesOf timing 0).toNat ≠ 0 ∧ (bytesOf timing 17).toNat / 8 % 4 = 3 :=
  ⟨by decide, by unfold DescriptorAt; decide, by decide, by decide⟩

/-- T-D16 (the first offset past the window), T-D8 (zero clock), T-D11 (digital composite), T-D18 (a reserved bit). -/
theorem witness_DtdChecksFailInOrder :
    (111#7).toNat > 110 ∧
    (DescriptorAt (withBuf (cells 54 (0 :: 0 :: timing.drop 2))) 54 (bytesOf (0 :: 0 :: timing.drop 2)) ∧
      (bytesOf (0 :: 0 :: timing.drop 2) 0).toNat = 0 ∧ (bytesOf (0 :: 0 :: timing.drop 2) 1).toNat = 0) ∧
    (DescriptorAt (withBuf (cells 54 (timing.take 17 ++ [0x16]))) 54 (bytesOf (timing.take 17 ++ [0x16])) ∧
      (bytesOf (timing.take 17 ++ [0x16]) 0).toNat ≠ 0 ∧ (bytesOf (timing.take 17 ++ [0x16]) 17).toNat / 8 % 4 ≠ 3) ∧
    ((0x800000B6#32).toNat / 2 ^ 28 = 8 ∧ (0x800000B6#32).toNat / 2 ^ 7 % 2 ^ 21 ≠ 0) :=
  ⟨by decide, ⟨by unfold DescriptorAt; decide, by decide⟩, ⟨by unfold DescriptorAt; decide, by decide⟩, by decide⟩

/-- A completed decode, and a failed one. -/
theorem witness_DtdOutcomes :
    (∃ t, exec (.dtdDecode 54) atSlot = .next t ∧ t.status.err = 0) ∧
    ∃ t, exec (.dtdDecode 111) atSlot = .next t ∧ t.status.err = 10 := by
  refine ⟨?_, ?_⟩ <;> apply next_of_fieldAfter <;> decide

/-- T-D13: borders and stereo bits differ. -/
theorem witness_DtdIgnoresBorderAndStereo :
    DescriptorAt atSlot 54 (bytesOf timing) ∧
    (∀ i : Fin 18, i.val < 15 → bytesOf (timing.take 15 ++ [0xAA, 0x55, 0x7F]) i = bytesOf timing i) ∧
    bytesOf (timing.take 15 ++ [0xAA, 0x55, 0x7F]) 17 &&& 0x9E#8 = bytesOf timing 17 &&& 0x9E#8 ∧
    DescriptorAt { atSlot with buf := cells 54 (timing.take 15 ++ [0xAA, 0x55, 0x7F]) } 54
      (bytesOf (timing.take 15 ++ [0xAA, 0x55, 0x7F])) ∧
    ∃ t, exec (.dtdDecode 54) atSlot = .next t ∧ t.status.err = 0 := by
  refine ⟨by unfold DescriptorAt; decide, by decide, by decide, by unfold DescriptorAt; decide, ?_⟩
  apply next_of_fieldAfter
  decide

theorem witness_ControlWords :
    ((0x00000001#32).toNat / 2 ^ 28 = 0 ∧ (0x00000001#32).toNat % 2 ^ 28 ≠ 0) ∧
    ((0xF0000100#32).toNat / 2 ^ 28 = 15 ∧ (0xF0000100#32).toNat % 2 ^ 28 ≠ 0) := by decide

theorem witness_PixelRepetitionReadsZero : ∃ w, registerWord State.reset 0xAC#8 = some w := ⟨_, rfl⟩

theorem witness_RegisterOffsets :
    0x80 ≤ (0x80#8).toNat ∧ (0xAC#8).toNat ≤ 0xAC ∧ (0x80#8).toNat % 4 = 0 ∧ (0xAC#8).toNat % 4 = 0 := by decide

/-- The edges of R37's table. -/
theorem witness_AccessesOutsideTheInterfaceAreRefused :
    [HostAccess.read .bits8 0x7F, .read .bits32 0x7C, .read .bits32 0xAC, .write .bits32 0x80 0, .write .bits8 0x7F 0].all
      admitted = true ∧
    [HostAccess.read .bits8 0x80, .read .bits32 0x7E, .read .bits32 0xB0, .write .bits32 0x84 0, .write .bits16 0 0,
      .read .bits16 0].all (fun a => !admitted a) = true := by decide

/-- The first and last BUF offsets of both widths, a written and an unwritten byte. -/
theorem witness_HostAccessOffsets :
    (0x7F#8).toNat ≤ 0x7F ∧ ((0x7C#8).toNat ≤ 0x7C ∧ (0x7C#8).toNat % 4 = 0) ∧
    small.buf.read (0x07#8).toNat = some 0xFF ∧ small.buf.read (0x7F#8).toNat = none ∧
    ((withBuf (cells 124 [1, 2, 3, 4])).buf.read (0x7C#8).toNat = some 1 ∧
      (withBuf (cells 124 [1, 2, 3, 4])).buf.read ((0x7C#8).toNat + 3) = some 4) := by decide

theorem witness_HostReadsHaveNoSideEffect : ∃ t, hostRead .bits32 0x84#8 small = .next t := ⟨_, rfl⟩

theorem witness_BufferWritesKeepEveryRegister : ∃ t, hostWrite .bits8 0x7F#8 1 small = .next t := ⟨_, rfl⟩

theorem witness_WaitingChangesNothing : State.reset.pending = [] := rfl

end Sys2Proof.Tests
end

/-! The state family: the words of the registers, the frame of each command, and what every step keeps. -/

namespace Sys2Proof.Machine

/-! ### Host reads of the registers, and the layouts of their words -/

section RegisterReads
variable {s : State} {o : HostOffset} {w : Word}

theorem registerWord_offset (h : registerWord s o = some w) : Config.bufBytes ≤ o.toNat ∧ o.toNat % 4 = 0 := by
  unfold registerWord at h
  split at h
  case h_13 => cases h
  all_goals simp only [Config.bufBytes, *]; decide

/-- A register's word is what a 32-bit host read at its offset answers, in every state (R37, R41). -/
theorem readsAs_of_registerWord (h : registerWord s o = some w) : ReadsAs s o w := by
  obtain ⟨hlo, hmod⟩ := registerWord_offset h
  refine ⟨h, ?_⟩
  simp [hostRead, answerRead, h, hmod, Nat.not_lt.mpr hlo]

end RegisterReads

section Layouts
open BitVec

/-- A word of two fields, each below reserved bits that are 0: the shape of DTD_H0 to DTD_IMG (R24 to R28). -/
theorem twoFieldWord_layout {p m q n : Nat} (hi : BitVec m) (lo : BitVec n) :
    (0#p ++ hi ++ 0#q ++ lo).extractLsb' 0 n = lo ∧ (0#p ++ hi ++ 0#q ++ lo).extractLsb' n q = 0 ∧
    (0#p ++ hi ++ 0#q ++ lo).extractLsb' (n + q) m = hi ∧ (0#p ++ hi ++ 0#q ++ lo).extractLsb' (n + q + m) p = 0 := by
  simp (disch := omega) [extractLsb'_append_eq_of_le, extractLsb'_append_eq_of_add_le, Nat.add_assoc]

theorem Status.word_layout (r : Status) :
    r.word.extractLsb' 0 4 = r.err ∧ r.word.extractLsb' 4 12 = 0 ∧ r.word.getLsbD 16 = false ∧
    r.word.extractLsb' 27 5 = 0 := by
  simp (disch := decide) only [Status.word, extractLsb'_append_eq_of_le, extractLsb'_append_eq_of_add_le,
    getLsbD_append, extractLsb'_zero, extractLsb'_eq_self, Nat.reduceSub]
  simp

/-- `STICKY[k]` is bit `16 + k` of the STATUS word (R16). -/
theorem Status.word_getLsbD_sticky (r : Status) {k : Nat} (h1 : 1 ≤ k) (h10 : k ≤ 10) :
    r.word.getLsbD (16 + k) = r.stickyBit k := by
  have herr : ¬ 16 + k < 4 := by omega
  have hgap : ¬ 16 + k - 4 < 13 := by omega
  have hbit : 16 + k - 4 - 13 = k - 1 := by omega
  have hsticky : k - 1 < 10 := by omega
  simp only [Status.word, Status.stickyBit, getLsbD_append, if_neg herr, if_neg hgap, hbit, if_pos hsticky, h1,
    decide_true, Bool.true_and]

theorem ClsRes.word_layout (r : ClsRes) :
    r.word.extractLsb' 0 2 = r.cls.code ∧ r.word.extractLsb' 2 6 = 0 ∧ r.word.extractLsb' 8 8 = r.tag ∧
    r.word.extractLsb' 16 15 = 0 ∧ r.word.getLsbD 31 = r.valid := by
  simp (disch := decide) only [ClsRes.word, extractLsb'_append_eq_of_le, extractLsb'_append_eq_of_add_le,
    getLsbD_append, extractLsb'_eq_self, Nat.reduceSub]
  simp

theorem SvdRes.word_layout (r : SvdRes) :
    r.word.extractLsb' 0 7 = r.code ∧ r.word.getLsbD 7 = r.native ∧ r.word.getLsbD 8 = r.lim420 ∧
    r.word.getLsbD 9 = r.ycc420 ∧ r.word.extractLsb' 10 21 = 0 ∧ r.word.getLsbD 31 = r.valid := by
  simp (disch := decide) only [SvdRes.word, extractLsb'_append_eq_of_le, extractLsb'_append_eq_of_add_le,
    getLsbD_append, extractLsb'_eq_self, Nat.reduceSub]
  simp

theorem DtdFlags.word_layout (r : DtdFlags) :
    r.word.getLsbD 0 = r.interlaced ∧ r.word.getLsbD 1 = r.vsyncPos ∧ r.word.getLsbD 2 = r.hsyncPos ∧
    r.word.extractLsb' 3 5 = 0 ∧ r.word.extractLsb' 8 4 = 0 ∧ r.word.extractLsb' 12 19 = 0 ∧
    r.word.getLsbD 31 = r.valid := by
  simp (disch := decide) only [DtdFlags.word, extractLsb'_append_eq_of_le, extractLsb'_append_eq_of_add_le,
    getLsbD_append, extractLsb'_eq_self, Nat.reduceSub]
  simp

end Layouts

/-- Settles O50: the word `registerWord` gives at 0x84, read bit by bit. -/
theorem statusWordLayout : Obligations.StatusWordLayout := by
  intro s
  obtain ⟨herr, hlow, hbit16, hhigh⟩ := s.status.word_layout
  exact ⟨_, readsAs_of_registerWord rfl, herr, hlow, hbit16,
    fun _ h1 h10 => s.status.word_getLsbD_sticky h1 h10, hhigh⟩

/-- Settles O51, from the layout lemma of each word. -/
theorem clsAndSvdWordLayouts : Obligations.ClsAndSvdWordLayouts := fun s =>
  ⟨⟨_, readsAs_of_registerWord rfl, s.clsRes.word_layout⟩, _, readsAs_of_registerWord rfl, s.svdRes.word_layout⟩

/-- Settles O52: five of the seven words are two fields below reserved bits. -/
theorem dtdWordLayouts : Obligations.DtdWordLayouts := fun s =>
  ⟨⟨_, readsAs_of_registerWord rfl, BitVec.extractLsb'_append_eq_right, BitVec.extractLsb'_append_eq_left⟩,
    ⟨_, readsAs_of_registerWord rfl, twoFieldWord_layout s.dtdH0.hblank s.dtdH0.hactive⟩,
    ⟨_, readsAs_of_registerWord rfl, twoFieldWord_layout s.dtdH1.hsw s.dtdH1.hsoff⟩,
    ⟨_, readsAs_of_registerWord rfl, twoFieldWord_layout s.dtdV0.vblank s.dtdV0.vactive⟩,
    ⟨_, readsAs_of_registerWord rfl, twoFieldWord_layout s.dtdV1.vsw s.dtdV1.vsoff⟩,
    ⟨_, readsAs_of_registerWord rfl, twoFieldWord_layout s.dtdImg.vimg s.dtdImg.himg⟩,
    ⟨_, readsAs_of_registerWord rfl, s.dtdFlags.word_layout⟩⟩


/-! ### STATUS after each end of a command -/

section Status
variable (st : Status) (e : Error) (k : Nat)

theorem Error.code_range : 1 ≤ e.code.toNat ∧ e.code.toNat ≤ 10 := by cases e <;> decide

@[simp] theorem Status.completed_stickyBit : st.completed.stickyBit k = st.stickyBit k := rfl

@[simp] theorem Status.stickyCleared_stickyBit : st.stickyCleared.stickyBit k = false := by
  simp [Status.stickyBit]

/-- Raising an error sets its own STICKY bit and leaves the others (R17, R113). -/
@[simp] theorem Status.raised_stickyBit :
    (st.raised e).stickyBit k = (decide (k = e.code.toNat) || st.stickyBit k) := by
  obtain ⟨hlo, hhi⟩ := e.code_range
  have hbit : (1#10 <<< (e.code.toNat - 1)).getLsbD (k - 1) = decide (k - 1 = e.code.toNat - 1) := by
    rw [Bool.eq_iff_iff]
    simp only [BitVec.getLsbD_shiftLeft, BitVec.getLsbD_one, Bool.and_eq_true, Bool.not_eq_true', decide_eq_true_eq,
      decide_eq_false_iff_not]
    omega
  by_cases hk : 1 ≤ k
  · have hsub : k - 1 = e.code.toNat - 1 ↔ k = e.code.toNat := by omega
    simp [Status.stickyBit, hk, hbit, hsub, Bool.or_comm]
  · have hne : k ≠ e.code.toNat := by omega
    simp [Status.stickyBit, hk, hne]

end Status

/-! ### What a command can do -/

/-- What a command that answers has done: one constructor per way to end, with the guard that leads there. The value of
a BFX result and the field that breached its contract are left open. -/
inductive Effect (s : State) : Instr → State → Prop
  | nop : Effect s .nop (complete s)
  | bfxResult (i : Instr) (hi : i.isBfx = true) (v : Word) : Effect s i (complete { s with bfxRes := v })
  | bfxBreach (i : Instr) (hi : i.isBfx = true) (he : Error.fieldContract.code ∈ errorsOf (.command i)) :
      Effect s i (raise .fieldContract s)
  | classify (tag : Byte) (hread : s.buf.read 0 = some tag) (hcls : classOf s.knownExtTags tag ≠ .unsupported) :
      Effect s .classify (complete { s with clsRes := ⟨classOf s.knownExtTags tag, tag, true⟩ })
  | classifyUnsupported (tag : Byte) (hread : s.buf.read 0 = some tag)
      (hcls : classOf s.knownExtTags tag = .unsupported) :
      Effect s .classify (raise .unsupportedBlock { s with clsRes := ⟨classOf s.knownExtTags tag, tag, true⟩ })
  | svdParse (off : Offset) (b : Byte) (hread : s.buf.read off.toNat = some b) :
      Effect s (.svdParse off) (complete { s with svdRes := parseSvd b })
  | svdMark (sel : Flag420) (code : BitVec 7) :
      Effect s (.svdMark sel code) (complete { s with svdRes := markSvd sel code s.svdRes })
  | dtdOutOfRange (off : Offset) (hoff : off.toNat > Config.lastDtdOffset) :
      Effect s (.dtdDecode off) (raise .outOfRange (invalidateDtd s))
  | dtdZeroClock (off : Offset) (d : Fin 18 → Byte) (hoff : off.toNat ≤ Config.lastDtdOffset)
      (hread : DescriptorAt s off d) (hclock : pixelClock d = 0) :
      Effect s (.dtdDecode off) (raise .invalidPixelClock (invalidateDtd s))
  | dtdIllegalSync (off : Offset) (d : Fin 18 → Byte) (hoff : off.toNat ≤ Config.lastDtdOffset)
      (hread : DescriptorAt s off d) (hclock : pixelClock d ≠ 0) (hsync : syncTypeLegal d = false) :
      Effect s (.dtdDecode off) (raise .invalidSyncType (invalidateDtd s))
  | dtdDecodes (off : Offset) (d : Fin 18 → Byte) (hoff : off.toNat ≤ Config.lastDtdOffset)
      (hread : DescriptorAt s off d) (hclock : pixelClock d ≠ 0) (hsync : syncTypeLegal d = true) :
      Effect s (.dtdDecode off) (complete (writeTiming d s))
  | clrstat : Effect s .clrstat (complete { s with status := s.status.stickyCleared })

section Exec
variable {s t : State} {i : Instr}

theorem execExtract_effect {off : Offset} {shift : BitVec 3} {width : BitVec 4}
    (h : execExtract off shift width s = .next t) : Effect s (.extract off shift width) t := by
  unfold execExtract at h
  split at h
  · obtain ⟨b, -, hb⟩ := withByte_next h
    cases hb
    exact .bfxResult _ rfl _
  · cases h
    exact .bfxBreach _ rfl (by simp [errorsOf, Error.code])

theorem execConcat_effect {hoff loff : Offset} {hshift lshift : BitVec 3} {hwidth lwidth : BitVec 4}
    (h : execConcat hoff hshift hwidth loff lshift lwidth s = .next t) :
    Effect s (.concat hoff hshift hwidth loff lshift lwidth) t := by
  have hbreach : Effect s (.concat hoff hshift hwidth loff lshift lwidth) (raise .fieldContract s) :=
    .bfxBreach _ rfl (by simp [errorsOf, Error.code])
  unfold execConcat at h
  split at h
  · cases h
    exact hbreach
  · split at h
    · cases h
      exact hbreach
    · obtain ⟨hi, -, hh⟩ := withByte_next h
      obtain ⟨lo, -, hl⟩ := withByte_next hh
      cases hl
      exact .bfxResult _ rfl _

theorem execWord_effect {hoff loff : Offset} (h : execWord hoff loff s = .next t) : Effect s (.word hoff loff) t := by
  obtain ⟨hi, -, hh⟩ := withByte_next h
  obtain ⟨lo, -, hl⟩ := withByte_next hh
  cases hl
  exact .bfxResult _ rfl _

theorem execDword_effect {b3 b2 b1 b0 : Offset} (h : execDword b3 b2 b1 b0 s = .next t) :
    Effect s (.dword b3 b2 b1 b0) t := by
  obtain ⟨v3, -, h3⟩ := withByte_next h
  obtain ⟨v2, -, h2⟩ := withByte_next h3
  obtain ⟨v1, -, h1⟩ := withByte_next h2
  obtain ⟨v0, -, h0⟩ := withByte_next h1
  cases h0
  exact .bfxResult _ rfl _

theorem execClassify_effect (h : execClassify s = .next t) : Effect s .classify t := by
  obtain ⟨tag, hread, ht⟩ := withByte_next h
  by_cases hcls : classOf s.knownExtTags tag = .unsupported
  · rw [if_pos hcls] at ht
    cases ht
    exact .classifyUnsupported tag hread hcls
  · rw [if_neg hcls] at ht
    cases ht
    exact .classify tag hread hcls

theorem execSvdParse_effect {off : Offset} (h : execSvdParse off s = .next t) : Effect s (.svdParse off) t := by
  obtain ⟨b, hread, hb⟩ := withByte_next h
  cases hb
  exact .svdParse off b hread

theorem execDtdDecode_effect {off : Offset} (h : execDtdDecode off s = .next t) : Effect s (.dtdDecode off) t := by
  unfold execDtdDecode at h
  split at h
  · cases h
    exact .dtdOutOfRange off ‹_›
  · rename_i hoff
    obtain ⟨d, hread, hd⟩ := withDescriptor_next h
    rw [Nat.not_lt] at hoff
    split at hd
    · cases hd
      exact .dtdZeroClock off d hoff hread ‹_›
    · rename_i hclock
      split at hd <;> rename_i hsync <;> cases hd
      · exact .dtdIllegalSync off d hoff hread hclock (by simpa using hsync)
      · exact .dtdDecodes off d hoff hread hclock (by simpa using hsync)

/-- Everything a command that answers can have done. -/
theorem exec_effect (h : exec i s = .next t) : Effect s i t := by
  cases i with
  | nop => cases h; exact .nop
  | extract => exact execExtract_effect h
  | concat => exact execConcat_effect h
  | word => exact execWord_effect h
  | dword => exact execDword_effect h
  | classify => exact execClassify_effect h
  | svdParse => exact execSvdParse_effect h
  | svdMark sel code => cases h; exact .svdMark sel code
  | dtdDecode => exact execDtdDecode_effect h
  | clrstat => cases h; exact .clrstat

/-- A DTD_DECODE whose window fits, whose clock is not 0 and whose sync type is legal writes the timing (R88). -/
theorem exec_dtdDecode_of_legal {off : Offset} {d : Fin 18 → Byte} (hoff : off.toNat ≤ Config.lastDtdOffset)
    (hread : DescriptorAt s off d) (hclock : pixelClock d ≠ 0) (hsync : syncTypeLegal d = true) :
    exec (.dtdDecode off) s = .next (complete (writeTiming d s)) := by
  have hwindow : ¬ off.toNat > Config.lastDtdOffset := by omega
  simp only [exec, execDtdDecode, if_neg hwindow, withDescriptor_of_read hread, if_neg hclock, hsync]
  simp

end Exec

/-! ### Frames -/

section Frames
variable {s t : State} {i : Instr}

theorem Effect.buf (h : Effect s i t) : t.buf = s.buf := by cases h <;> rfl
theorem Effect.cmd (h : Effect s i t) : t.cmd = s.cmd := by cases h <;> rfl
theorem Effect.knownExtTags (h : Effect s i t) : t.knownExtTags = s.knownExtTags := by cases h <;> rfl
theorem Effect.pending (h : Effect s i t) : t.pending = s.pending := by cases h <;> rfl
theorem Effect.lastRead (h : Effect s i t) : t.lastRead = s.lastRead := by cases h <;> rfl

theorem Effect.bfxRes_of_ne (h : Effect s i t) (hne : t.bfxRes ≠ s.bfxRes) : i.isBfx = true := by
  cases h with
  | bfxResult _ hi => exact hi
  | _ => exact absurd rfl hne

theorem Effect.clsRes_of_ne (h : Effect s i t) (hne : t.clsRes ≠ s.clsRes) : i = .classify := by
  cases h with
  | classify | classifyUnsupported => rfl
  | _ => exact absurd rfl hne

theorem Effect.svdRes_of_ne (h : Effect s i t) (hne : t.svdRes ≠ s.svdRes) :
    (∃ off, i = .svdParse off) ∨ ∃ sel code, i = .svdMark sel code := by
  cases h with
  | svdParse off => exact .inl ⟨off, rfl⟩
  | svdMark sel code => exact .inr ⟨sel, code, rfl⟩
  | _ => exact absurd rfl hne

theorem Effect.dtd_registers (h : Effect s i t) :
    (∃ off, i = .dtdDecode off) ∨
      (t.dtdPclk = s.dtdPclk ∧ t.dtdH0 = s.dtdH0 ∧ t.dtdH1 = s.dtdH1 ∧ t.dtdV0 = s.dtdV0 ∧ t.dtdV1 = s.dtdV1 ∧
        t.dtdImg = s.dtdImg ∧ t.dtdFlags = s.dtdFlags) := by
  cases h with
  | dtdOutOfRange off | dtdZeroClock off | dtdIllegalSync off | dtdDecodes off => exact .inl ⟨off, rfl⟩
  | _ => exact .inr ⟨rfl, rfl, rfl, rfl, rfl, rfl, rfl⟩

end Frames

/-- Settles O24, from the frame of `Effect`. -/
theorem resultRegistersAreWrittenOnlyByTheirCommands : Obligations.ResultRegistersAreWrittenOnlyByTheirCommands := by
  intro i s t h
  have he := exec_effect h
  exact ⟨fun a => by rw [he.buf], he.cmd, he.knownExtTags, he.pending, he.lastRead, he.bfxRes_of_ne, he.clsRes_of_ne,
    he.svdRes_of_ne, he.dtd_registers⟩

/-- Settles O33: a BFX command ends with its result or with FieldContract. -/
theorem bfxFrame : Obligations.BfxFrame := by
  intro i s t hi h
  cases exec_effect h with
  | bfxResult => exact ⟨rfl, fun _ _ => rfl, fun _ => rfl⟩
  | bfxBreach => exact ⟨rfl, fun k hk => by simp [Error.code, hk], fun _ => rfl⟩
  | _ => cases hi

/-- Settles O40, one case per way the three commands end. -/
theorem clsAndSvdFrame : Obligations.ClsAndSvdFrame := by
  intro s t
  constructor
  · intro h
    cases exec_effect h with
    | classify => exact ⟨rfl, fun _ _ => rfl, fun _ => rfl⟩
    | classifyUnsupported => exact ⟨rfl, fun k hk => by simp [Error.code, hk], fun _ => rfl⟩
    | bfxResult _ hi | bfxBreach _ hi => cases hi
  · rintro i (⟨off, rfl⟩ | ⟨sel, code, rfl⟩) h
    · cases exec_effect h with
      | svdParse => exact ⟨rfl, fun _ => rfl, fun _ => rfl⟩
      | bfxResult _ hi | bfxBreach _ hi => cases hi
    · cases exec_effect h with
      | svdMark => exact ⟨rfl, fun _ => rfl, fun _ => rfl⟩
      | bfxResult _ hi | bfxBreach _ hi => cases hi

/-- Settles O45: a decode that passed its checks passes them in every state with the same 18 bytes. -/
theorem dtdRegistersAreWrittenTogetherOrNotAtAll : Obligations.DtdRegistersAreWrittenTogetherOrNotAtAll := by
  intro s off t h
  cases exec_effect h with
  | dtdDecodes _ d hoff hread hclock hsync =>
    exact .inl ⟨rfl, rfl, hclock, d, hread, fun s' hread' => exec_dtdDecode_of_legal hoff hread' hclock hsync⟩
  | dtdZeroClock => exact .inr ⟨.inl rfl, rfl⟩
  | dtdIllegalSync => exact .inr ⟨.inr (.inl rfl), rfl⟩
  | dtdOutOfRange => exact .inr ⟨.inr (.inr rfl), rfl⟩
  | bfxResult _ hi | bfxBreach _ hi => cases hi

/-! ### Steps and the invariant -/

section Steps
variable {s t : State} {i : Instr}

theorem hostWrite_cmd (w : Word) : hostWrite .bits32 Config.cmdOffset w s = runCommandWord w s := rfl

theorem runCommandWord_cmd {w : Word} (h : runCommandWord w s = .next t) : t.cmd = w := by
  obtain ⟨i, -, hx⟩ | ⟨why, -, rfl⟩ := runCommandWord_next h
  · exact (exec_effect hx).cmd
  · rfl

theorem step_buf_wf (hs : s.buf.wf = true) (h : step s = .next t) : t.buf.wf = true := by
  obtain ⟨-, rfl⟩ | ⟨rest, ⟨-, rfl⟩ | ⟨_, _, _, -, rfl⟩ | ⟨_, _, v, -, ho, rfl⟩ | ⟨_, _, v, -, ho, rfl⟩ |
    ⟨w, i, -, -, hx⟩ | ⟨w, why, -, -, rfl⟩⟩ := step_cases h
  · exact hs
  · exact Memory.nil_wf
  · exact hs
  · exact Memory.write_wf _ _ hs ho
  · exact writeBufWord_wf v hs ho
  · rw [(exec_effect hx).buf]
    exact hs
  · exact hs

end Steps

/-- Settles O7, event by event. -/
theorem stepKeepsBufferCanonical : Obligations.StepKeepsBufferCanonical := fun _ _ => step_buf_wf

/-- Settles O18: the CMD write is `runCommandWord`, and no command writes CMD. -/
theorem cmdWriteStoresAndRunsTheWord : Obligations.CmdWriteStoresAndRunsTheWord := by
  intro s w t h
  rw [hostWrite_cmd] at h
  have hcmd := runCommandWord_cmd h
  have hword : registerWord t 0x80#8 = some w := congrArg some hcmd
  refine ⟨hcmd, (readsAs_of_registerWord hword).2, fun i hi => ?_⟩
  simpa only [runCommandWord, hi] using h

section Invariant
variable {s t : State} {i : Instr}

/-- The reserved codes 1, 2, 4 and 7 are never logged (R18): the part of `State.statusInv` that a new word in CMD
leaves standing. -/
def State.reservedClear (s : State) : Prop := ∀ k ∈ [1, 2, 4, 7], s.status.stickyBit k = false

theorem complete_statusInv (hres : s.reservedClear) (herr : 0 ∈ errorsOf (decode s.cmd)) : (complete s).statusInv :=
  ⟨herr, fun hne => absurd rfl hne, hres⟩

theorem raise_statusInv {e : Error} (hres : s.reservedClear) (herr : e.code ∈ errorsOf (decode s.cmd)) :
    (raise e s).statusInv := by
  refine ⟨herr, fun _ => by simp, fun k hk => ?_⟩
  have hcode : ∀ k ∈ [1, 2, 4, 7], k ≠ e.code.toNat := by cases e <;> decide
  simp [hcode k hk, hres k hk]

theorem zero_mem_errorsOf_command (i : Instr) : 0 ∈ errorsOf (.command i) := by cases i <;> simp [errorsOf]

theorem Effect.statusInv (h : Effect s i t) (hres : s.reservedClear) (hi : decode s.cmd = .command i) :
    t.statusInv := by
  have hzero : 0 ∈ errorsOf (decode s.cmd) := hi ▸ zero_mem_errorsOf_command i
  cases h with
  | nop | bfxResult | classify | svdParse | svdMark | dtdDecodes => exact complete_statusInv hres hzero
  | clrstat => exact complete_statusInv (fun k _ => by simp) hzero
  | bfxBreach _ _ he => exact raise_statusInv hres (hi ▸ he)
  | classifyUnsupported | dtdOutOfRange | dtdZeroClock | dtdIllegalSync =>
    exact raise_statusInv hres (hi ▸ by simp [errorsOf, Error.code])

theorem Effect.clsInv (h : Effect s i t) (hs : s.clsInv) : t.clsInv := by
  cases h with
  | classify | classifyUnsupported => exact ⟨fun _ => rfl, nofun⟩
  | _ => exact hs

theorem markSvd_valid (sel : Flag420) (code : BitVec 7) (r : SvdRes) : (markSvd sel code r).valid = r.valid := by
  unfold markSvd
  split
  · cases sel <;> rfl
  · rfl

theorem markSvd_of_invalid (sel : Flag420) (code : BitVec 7) {r : SvdRes} (h : r.valid = false) :
    markSvd sel code r = r := by
  simp [markSvd, h]

theorem Effect.svdInv (h : Effect s i t) (hs : s.svdInv) : t.svdInv := by
  cases h with
  | svdParse => exact nofun
  | svdMark sel code =>
    intro hv
    have hinv : s.svdRes.valid = false := by simpa [markSvd_valid] using hv
    simpa [markSvd_of_invalid sel code hinv] using hs hinv
  | _ => exact hs

theorem Effect.dtdInv (h : Effect s i t) (hs : s.dtdInv) : t.dtdInv := by
  cases h with
  | dtdDecodes _ _ _ _ hclock => exact fun hzero => absurd hzero hclock
  | dtdOutOfRange | dtdZeroClock | dtdIllegalSync =>
    intro hzero
    obtain ⟨hh0, hh1, hv0, hv1, himg, hflags⟩ := hs hzero
    exact ⟨hh0, hh1, hv0, hv1, himg, by simp [hflags]⟩
  | _ => exact hs

theorem decode_zero : decode 0 = .command .nop := by decide

theorem hardwareReset_inv (hs : s.tagsInv) : (hardwareReset s).Inv :=
  have herr : (hardwareReset s).status.err ∈ errorsOf (decode (hardwareReset s).cmd) :=
    decode_zero ▸ zero_mem_errorsOf_command .nop
  ⟨Memory.nil_wf, ⟨herr, fun hne => absurd rfl hne, fun _ _ => by simp [Status.stickyBit]⟩,
    ⟨nofun, fun _ => rfl⟩, fun _ => rfl, fun _ => ⟨rfl, rfl, rfl, rfl, rfl, rfl⟩, hs⟩

/-- A command keeps the invariant whatever error STATUS held before it, so a new word in CMD does no harm. -/
theorem Effect.inv (h : Effect s i t) (hi : decode s.cmd = .command i) (hbuf : s.buf.wf = true)
    (hres : s.reservedClear) (hcls : s.clsInv) (hsvd : s.svdInv) (hdtd : s.dtdInv) (htags : s.tagsInv) : t.Inv := by
  refine ⟨?_, h.statusInv hres hi, h.clsInv hcls, h.svdInv hsvd, h.dtdInv hdtd, ?_⟩
  · rw [h.buf]
    exact hbuf
  · rw [State.tagsInv, h.knownExtTags]
    exact htags

theorem step_inv (hs : s.Inv) (h : step s = .next t) : t.Inv := by
  obtain ⟨hwf, hstatus, hcls, hsvd, hdtd, htags⟩ := hs
  have hbuf := step_buf_wf hwf h
  have hres : s.reservedClear := hstatus.2.2
  obtain ⟨-, rfl⟩ | ⟨rest, ⟨-, rfl⟩ | ⟨_, _, _, -, rfl⟩ | ⟨_, _, _, -, -, rfl⟩ | ⟨_, _, _, -, -, rfl⟩ |
    ⟨w, i, -, hd, hx⟩ | ⟨w, why, -, hd, rfl⟩⟩ := step_cases h
  · exact ⟨hbuf, hstatus, hcls, hsvd, hdtd, htags⟩
  · exact hardwareReset_inv htags
  · exact ⟨hbuf, hstatus, hcls, hsvd, hdtd, htags⟩
  · exact ⟨hbuf, hstatus, hcls, hsvd, hdtd, htags⟩
  · exact ⟨hbuf, hstatus, hcls, hsvd, hdtd, htags⟩
  · exact (exec_effect hx).inv hd hwf hres hcls hsvd hdtd htags
  · exact ⟨hbuf, raise_statusInv hres (by simp [hd, errorsOf, Error.code]), hcls, hsvd, hdtd, htags⟩

end Invariant

/-- Settles O6: each part of the invariant is kept by every effect of a command; the other events keep it by the
operation they perform. -/
theorem stepKeepsTheInvariant : Obligations.StepKeepsTheInvariant := fun _ _ => step_inv

end Sys2Proof.Machine

/-! The memory family: the host's accesses to BUF, its reads of the registers, and the bytes a command depends on. -/

namespace Sys2Proof.Machine

/-! ### Bytes and little-endian words -/

theorem extractLsb'_byte (v : Word) (j : Nat) : v.extractLsb' (8 * j) 8 = BitVec.ofNat 8 (v.toNat / 256 ^ j) := by
  rw [BitVec.extractLsb', Nat.shiftRight_eq_div_pow, Nat.pow_mul]

/-- The four bytes of a double word as digits to base 256. -/
theorem bytesToDword_eq_ofNat (b3 b2 b1 b0 : Byte) :
    bytesToDword b3 b2 b1 b0 =
      BitVec.ofNat 32 (((b3.toNat * 256 + b2.toNat) * 256 + b1.toNat) * 256 + b0.toNat) := by
  apply BitVec.eq_of_toNat_eq
  simp only [bytesToDword, Laws.Encoding.toNat_append_add, BitVec.toNat_ofNat]
  omega

/-- Joining the four bytes of a word gives the word back. -/
theorem bytesToDword_extractLsb' (v : Word) :
    bytesToDword (v.extractLsb' 24 8) (v.extractLsb' 16 8) (v.extractLsb' 8 8) (v.extractLsb' 0 8) = v := by
  rw [bytesToDword_eq_ofNat]
  apply BitVec.eq_of_toNat_eq
  simp only [BitVec.extractLsb'_toNat, BitVec.toNat_ofNat, Nat.shiftRight_eq_div_pow]
  omega

/-! ### Host accesses to BUF -/

section BufferAccesses
variable {s : State} {o : HostOffset} {a : Nat} {k : Byte → Result}

theorem hostRead_bits8 (ho : o.toNat < Config.bufBytes) :
    hostRead .bits8 o s = withByte s o.toNat fun b => answerRead (b.setWidth 32) s := if_pos ho

theorem hostWrite_bits8 (ho : o.toNat < Config.bufBytes) (v : Word) :
    hostWrite .bits8 o v s = .next { s with buf := s.buf.write o.toNat (v.extractLsb' 0 8) } := if_pos ho

theorem hostRead_bits32_buf (ho : o.toNat < Config.bufBytes) (hmod : o.toNat % 4 = 0) :
    hostRead .bits32 o s =
      withByte s o.toNat fun b0 => withByte s (o.toNat + 1) fun b1 => withByte s (o.toNat + 2) fun b2 =>
      withByte s (o.toNat + 3) fun b3 => answerRead (bytesToDword b3 b2 b1 b0) s := by
  simp only [hostRead, hmod, ho, ne_eq, not_true_eq_false, if_true, if_false]

theorem hostWrite_bits32_buf (ho : o.toNat < Config.bufBytes) (hmod : o.toNat % 4 = 0) (v : Word) :
    hostWrite .bits32 o v s = .next { s with buf := writeBufWord o.toNat v s.buf } := by
  simp only [hostWrite, hmod, ho, ne_eq, not_true_eq_false, if_true, if_false]

/-- Four written bytes are read little-endian (R40). -/
theorem hostRead_bits32_of_read (ho : o.toNat < Config.bufBytes) (hmod : o.toNat % 4 = 0) {b0 b1 b2 b3 : Byte}
    (h0 : s.buf.read o.toNat = some b0) (h1 : s.buf.read (o.toNat + 1) = some b1)
    (h2 : s.buf.read (o.toNat + 2) = some b2) (h3 : s.buf.read (o.toNat + 3) = some b3) :
    hostRead .bits32 o s = .next { s with lastRead := some (bytesToDword b3 b2 b1 b0) } := by
  rw [hostRead_bits32_buf ho hmod, withByte_of_read h0, withByte_of_read h1, withByte_of_read h2, withByte_of_read h3,
    answerRead]

/-- A read that can only be followed by the fault ends in the fault, whether its own byte is written or not. -/
theorem withByte_fault (hk : ∀ b, k b = .fault .unwrittenBuffer) : withByte s a k = .fault .unwrittenBuffer := by
  unfold withByte
  split
  · exact hk _
  · rfl

/-- One unwritten byte among the four makes the word read fault (R40, R122). -/
theorem hostRead_bits32_of_unwritten (ho : o.toNat < Config.bufBytes) (hmod : o.toNat % 4 = 0) {j : Nat} (hj : j < 4)
    (h : s.buf.read (o.toNat + j) = none) : hostRead .bits32 o s = .fault .unwrittenBuffer := by
  rw [hostRead_bits32_buf ho hmod]
  match j, hj with
  | 0, _ => exact withByte_of_unwritten h
  | 1, _ => exact withByte_fault fun _ => withByte_of_unwritten h
  | 2, _ => exact withByte_fault fun _ => withByte_fault fun _ => withByte_of_unwritten h
  | 3, _ => exact withByte_fault fun _ => withByte_fault fun _ => withByte_fault fun _ => withByte_of_unwritten h

/-- The byte a 32-bit BUF write leaves at each of its four offsets, as a digit of the word to base 256. -/
theorem read_writeBufWord_digit (m : Memory) (a : Nat) (v : Word) {j : Nat} (hj : j < 4) :
    (writeBufWord a v m).read (a + j) = some (BitVec.ofNat 8 (v.toNat / 256 ^ j)) := by
  rw [← extractLsb'_byte, read_writeBufWord]
  match j, hj with
  | 0, _ | 1, _ | 2, _ | 3, _ => simp

theorem read_writeBufWord_other (m : Memory) {a x : Nat} (v : Word) (hx : x < a ∨ a + 3 < x) :
    (writeBufWord a v m).read x = m.read x := by
  rw [read_writeBufWord, if_neg (by omega), if_neg (by omega), if_neg (by omega), if_neg (by omega)]

/-- A word written to BUF is read back. -/
theorem hostRead_bits32_writeBufWord (ho : o.toNat < Config.bufBytes) (hmod : o.toNat % 4 = 0) {m : Memory}
    {v : Word} (hbuf : s.buf = writeBufWord o.toNat v m) :
    hostRead .bits32 o s = .next { s with lastRead := some v } := by
  have hread := hostRead_bits32_of_read (s := s) ho hmod (b0 := v.extractLsb' 0 8) (b1 := v.extractLsb' 8 8)
    (b2 := v.extractLsb' 16 8) (b3 := v.extractLsb' 24 8)
  simpa [hbuf, read_writeBufWord, bytesToDword_extractLsb'] using hread

/-- What the host read before has no part in a host read's answer. -/
theorem hostRead_lastRead (width : AccessWidth) (x : Option Word) :
    hostRead width o { s with lastRead := x } = hostRead width o s := by
  cases width <;> rfl

end BufferAccesses

/-- Settles O55. -/
theorem byteWriteSetsOneByte : Obligations.ByteWriteSetsOneByte := by
  intro s o v ho
  refine ⟨_, hostWrite_bits8 (by simp only [Config.bufBytes]; omega) v, rfl, fun a => ?_⟩
  rw [Memory.read_write, extractLsb'_byte v 0, Nat.pow_zero, Nat.div_one]

/-- Settles O56. -/
theorem byteReadReturnsTheByte : Obligations.ByteReadReturnsTheByte := by
  intro s o ho
  rw [hostRead_bits8 (by simp only [Config.bufBytes]; omega)]
  exact ⟨fun b hb => by rw [withByte_of_read hb, answerRead, BitVec.ofNat_toNat], withByte_of_unwritten⟩

/-- Settles O57: the bytes of a word are its digits to base 256, lowest first. -/
theorem wordAccessesToBufAreLittleEndian : Obligations.WordAccessesToBufAreLittleEndian := by
  intro s o ho hmod
  have hbuf : o.toNat < Config.bufBytes := by simp only [Config.bufBytes]; omega
  refine ⟨fun v => ⟨_, hostWrite_bits32_buf hbuf hmod v, rfl, fun j hj => read_writeBufWord_digit _ _ v hj,
    fun a ha => read_writeBufWord_other _ v ha, hostRead_bits32_writeBufWord hbuf hmod rfl⟩, ?_, ?_⟩
  · intro b0 b1 b2 b3 h0 h1 h2 h3
    rw [← bytesToDword_eq_ofNat]
    exact hostRead_bits32_of_read hbuf hmod h0 h1 h2 h3
  · rintro ⟨j, hj, h⟩
    exact hostRead_bits32_of_unwritten hbuf hmod hj h

/-- Settles O58: a read that answers changes `lastRead` alone, and no read depends on `lastRead`. -/
theorem hostReadsHaveNoSideEffect : Obligations.HostReadsHaveNoSideEffect := by
  intro width o s t h
  obtain ⟨v, rfl⟩ := hostRead_next h
  exact ⟨rfl, (hostRead_lastRead width _).trans h⟩

/-! ### Host reads of the registers -/

/-- Every multiple of 4 from 0x80 to 0xAC is the offset of a register (R35, R37). -/
theorem registerWord_of_offset (s : State) {o : HostOffset} (hlo : 0x80 ≤ o.toNat) (hhi : o.toNat ≤ 0xAC)
    (hmod : o.toNat % 4 = 0) : ∃ w, registerWord s o = some w := by
  obtain ⟨k, hk, rfl⟩ : ∃ k, k < 12 ∧ o = BitVec.ofNat 8 (0x80 + 4 * k) :=
    ⟨(o.toNat - 0x80) / 4, by omega, BitVec.eq_of_toNat_eq (by rw [BitVec.toNat_ofNat]; omega)⟩
  clear hlo hhi hmod
  interval_cases k <;> exact ⟨_, rfl⟩

/-- Settles O53. -/
theorem registerReadsReturnTheRegister : Obligations.RegisterReadsReturnTheRegister := by
  refine fun s => ⟨readsAs_of_registerWord rfl, readsAs_of_registerWord rfl, fun o hlo hhi hmod => ?_⟩
  obtain ⟨w, hw⟩ := registerWord_of_offset s hlo hhi hmod
  exact ⟨w, readsAs_of_registerWord hw⟩

/-! ### The bytes a command depends on -/

section Noninterference

/-- The same outcome over another buffer. -/
def Result.withBuf (m : Memory) : Result → Result
  | .next t => .next { t with buf := m }
  | .fault f => .fault f
  | .refused r => .refused r

variable {s : State} {m : Memory}

theorem withByte_withBuf {a : Nat} {k k' : Byte → Result} (h : m.read a = s.buf.read a)
    (hk : ∀ b, k' b = Result.withBuf m (k b)) :
    withByte { s with buf := m } a k' = Result.withBuf m (withByte s a k) := by
  cases hb : s.buf.read a with
  | none => rw [withByte_of_unwritten hb, withByte_of_unwritten (h.trans hb), Result.withBuf]
  | some b => rw [withByte_of_read hb, withByte_of_read (h.trans hb), hk]

theorem withDescriptor_withBuf {off : Nat} {k k' : (Fin 18 → Byte) → Result}
    (h : ∀ i : Fin 18, m.read (off + i.val) = s.buf.read (off + i.val)) (hk : ∀ d, k' d = Result.withBuf m (k d)) :
    withDescriptor { s with buf := m } off k' = Result.withBuf m (withDescriptor s off k) := by
  simp only [withDescriptor, h]
  split
  · exact hk _
  · rfl

theorem execExtract_withBuf {off : Offset} {shift : BitVec 3} {width : BitVec 4}
    (h : ∀ a ∈ commandReads (.extract off shift width), m.read a = s.buf.read a) :
    execExtract off shift width { s with buf := m } = Result.withBuf m (execExtract off shift width s) := by
  unfold execExtract
  split
  · rename_i hlegal
    exact withByte_withBuf (h _ (by simp [commandReads, hlegal])) fun _ => rfl
  · rfl

theorem execConcat_withBuf {hoff loff : Offset} {hshift lshift : BitVec 3} {hwidth lwidth : BitVec 4}
    (h : ∀ a ∈ commandReads (.concat hoff hshift hwidth loff lshift lwidth), m.read a = s.buf.read a) :
    execConcat hoff hshift hwidth loff lshift lwidth { s with buf := m } =
      Result.withBuf m (execConcat hoff hshift hwidth loff lshift lwidth s) := by
  unfold execConcat
  split
  · rfl
  · split
    · rfl
    · rename_i hhigh hlow
      have hreads : commandReads (.concat hoff hshift hwidth loff lshift lwidth) = [hoff.toNat, loff.toNat] := by
        simp only [Bool.not_eq_true', Bool.not_eq_false] at hhigh hlow
        simp [commandReads, hhigh, hlow]
      simp only [hreads, List.forall_mem_cons] at h
      obtain ⟨hhi, hlo, -⟩ := h
      exact withByte_withBuf hhi fun _ => withByte_withBuf hlo fun _ => rfl

theorem execDtdDecode_withBuf {off : Offset}
    (h : ∀ a ∈ commandReads (.dtdDecode off), m.read a = s.buf.read a) :
    execDtdDecode off { s with buf := m } = Result.withBuf m (execDtdDecode off s) := by
  unfold execDtdDecode
  split
  · rfl
  · rename_i hoff
    have hwindow (i : Fin 18) : off.toNat + i.val ∈ commandReads (.dtdDecode off) := by
      simp [commandReads, Nat.not_lt.mp hoff, Config.dtdBytes, i.isLt]
    refine withDescriptor_withBuf (fun i => h _ (hwindow i)) fun d => ?_
    split
    · rfl
    · split <;> rfl

/-- A command over a buffer with the same bytes at its offsets has the same outcome, over that buffer (R13, R42). -/
theorem exec_withBuf {i : Instr} (h : ∀ a ∈ commandReads i, m.read a = s.buf.read a) :
    exec i { s with buf := m } = Result.withBuf m (exec i s) := by
  cases i with
  | nop | svdMark | clrstat => rfl
  | extract => exact execExtract_withBuf h
  | concat => exact execConcat_withBuf h
  | word hoff loff =>
    simp only [commandReads, List.forall_mem_cons] at h
    obtain ⟨hhi, hlo, -⟩ := h
    exact withByte_withBuf hhi fun _ => withByte_withBuf hlo fun _ => rfl
  | dword b3 b2 b1 b0 =>
    simp only [commandReads, List.forall_mem_cons] at h
    obtain ⟨h3, h2, h1, h0, -⟩ := h
    exact withByte_withBuf h3 fun _ => withByte_withBuf h2 fun _ => withByte_withBuf h1 fun _ =>
      withByte_withBuf h0 fun _ => rfl
  | classify =>
    refine withByte_withBuf (h _ (by simp [commandReads])) fun tag => ?_
    dsimp only
    split <;> rfl
  | svdParse off => exact withByte_withBuf (h _ (by simp [commandReads])) fun _ => rfl
  | dtdDecode => exact execDtdDecode_withBuf h

end Noninterference

/-- Settles O23, command by command. -/
theorem commandsReadOnlyTheirNamedBytes : Obligations.CommandsReadOnlyTheirNamedBytes := by
  intro i s m h
  rw [exec_withBuf h]
  cases exec i s <;> rfl

end Sys2Proof.Machine

/-! The encoding family: the decoder, the encoder and the assembler agree. -/

namespace Sys2Proof

/-! ### A word read in a command's format -/

/-- The per-command facts of `Laws.Encoding`, for any command. -/
theorem Instr.encoding_statement : ∀ i, Laws.Encoding.Statement i
  | .nop => Laws.Encoding.nop
  | .extract off shift width => Laws.Encoding.extract off shift width
  | .concat hoff hshift hwidth loff lshift lwidth => Laws.Encoding.concat hoff hshift hwidth loff lshift lwidth
  | .word hoff loff => Laws.Encoding.word hoff loff
  | .dword b3 b2 b1 b0 => Laws.Encoding.dword b3 b2 b1 b0
  | .classify => Laws.Encoding.classify
  | .svdParse off => Laws.Encoding.svdParse off
  | .svdMark sel code => Laws.Encoding.svdMark sel code
  | .dtdDecode off => Laws.Encoding.dtdDecode off
  | .clrstat => Laws.Encoding.clrstat

theorem Instr.wellFormed_eq_true (i : Instr) : i.wellFormed = true := i.encoding_statement.1

theorem opcField_encode (i : Instr) : opcField (encode i) = i.opcode := i.encoding_statement.2

/-- The lowest reserved bit of a command's format: bits 27 down to it are reserved, none where it is 28 (R49, R50). -/
def Instr.reservedFrom : Instr → Nat
  | .nop | .classify | .clrstat => 0
  | .extract _ _ _ | .word _ _ => 14
  | .concat _ _ _ _ _ _ | .dword _ _ _ _ => 28
  | .svdParse _ | .dtdDecode _ => 7
  | .svdMark _ _ => 8

/-- The bits of the word `w` that are reserved in the format of `i`. -/
def Instr.reservedOf (i : Instr) (w : Word) : BitVec (28 - i.reservedFrom) :=
  w.extractLsb' i.reservedFrom (28 - i.reservedFrom)

/-- The command of the same format as `i` whose operands are the fields of `w` in that format (R49). -/
def Instr.withFieldsOf (i : Instr) (w : Word) : Instr :=
  match i with
  | .nop => .nop
  | .extract _ _ _ => .extract (w.extractLsb' 0 7) (w.extractLsb' 7 3) (w.extractLsb' 10 4)
  | .concat _ _ _ _ _ _ => .concat (w.extractLsb' 0 7) (w.extractLsb' 7 3) (w.extractLsb' 10 4)
      (w.extractLsb' 14 7) (w.extractLsb' 21 3) (w.extractLsb' 24 4)
  | .word _ _ => .word (w.extractLsb' 0 7) (w.extractLsb' 7 7)
  | .dword _ _ _ _ =>
      .dword (w.extractLsb' 0 7) (w.extractLsb' 7 7) (w.extractLsb' 14 7) (w.extractLsb' 21 7)
  | .classify => .classify
  | .svdParse _ => .svdParse (w.extractLsb' 0 7)
  | .svdMark _ _ => .svdMark (flagOfSel (w.getLsbD 7)) (w.extractLsb' 0 7)
  | .dtdDecode _ => .dtdDecode (w.extractLsb' 0 7)
  | .clrstat => .clrstat

theorem flagOfSel_selOfFlag (sel : Flag420) : flagOfSel ((selOfFlag sel).getLsbD 0) = sel := by
  cases sel <;> rfl

theorem selOfFlag_flagOfSel (w : Word) (k : Nat) : selOfFlag (flagOfSel (w.getLsbD k)) = w.extractLsb' k 1 := by
  apply BitVec.eq_of_getLsbD_eq
  intro j hj
  obtain rfl : j = 0 := by omega
  cases h : w.getLsbD k <;> simp [selOfFlag, flagOfSel, h]

section Formats
open BitVec
variable {w : Word} {i : Instr}

theorem reservedOf_encode (i : Instr) : i.reservedOf (encode i) = 0 := by
  cases i <;> simp (disch := decide) only [Instr.reservedOf, Instr.reservedFrom, encode, extractLsb'_append_eq_of_le,
    extractLsb'_append_eq_of_add_le, Nat.reduceSub, extractLsb'_eq_self, of_length_zero] <;> rfl

theorem withFieldsOf_encode (i : Instr) : i.withFieldsOf (encode i) = i := by
  cases i <;> simp (disch := decide) only [Instr.withFieldsOf, encode, extractLsb'_append_eq_of_le,
    extractLsb'_append_eq_of_add_le, Nat.reduceSub, extractLsb'_eq_self, getLsbD_append]
  case svdMark sel code => exact congrArg (Instr.svdMark · code) (flagOfSel_selOfFlag sel)

/-- Opcode, reserved bits and fields are consecutive slices of a word, so joined they are the word. -/
theorem encode_withFieldsOf (hop : opcField w = i.opcode) (hres : i.reservedOf w = 0) :
    encode (i.withFieldsOf w) = w := by
  cases i
  all_goals
    simp only [Instr.opcode, Instr.reservedOf, Instr.reservedFrom, Nat.reduceSub, ofNat_eq_ofNat] at hop hres
    simp only [encode, Instr.withFieldsOf, selOfFlag_flagOfSel, ← hop, ← hres]
    simp (disch := decide) only [opcField, extractLsb'_append_extractLsb'_eq_extractLsb']
    exact extractLsb'_eq_self

/-- The slice of `n` bits above the low `s` is 0 when the number below bit `s + n` fits the low `s`. -/
theorem extractLsb'_eq_zero_iff_mod_lt {v : Nat} (x : BitVec v) (s n : Nat) :
    x.extractLsb' s n = 0#n ↔ x.toNat % 2 ^ (s + n) < 2 ^ s := by
  rw [← toNat_inj, extractLsb'_toNat, toNat_ofNat, Nat.zero_mod, Nat.shiftRight_eq_div_pow, Nat.pow_add,
    ← Nat.mod_mul_right_div_self, Nat.div_eq_zero_iff_lt (Nat.two_pow_pos s)]

theorem reservedOf_eq_zero_iff (i : Instr) (w : Word) :
    i.reservedOf w = 0 ↔ w.toNat % 2 ^ 28 < 2 ^ i.reservedFrom := by
  have hfrom : i.reservedFrom + (28 - i.reservedFrom) = 28 := by cases i <;> rfl
  rw [Instr.reservedOf, ofNat_eq_ofNat, extractLsb'_eq_zero_iff_mod_lt, hfrom]

end Formats

/-! ### Opcodes -/

/-- Opcodes 0x9 to 0xE (R61). -/
abbrev ReservedOpcode (opc : BitVec 4) : Prop := 0x9 ≤ opc.toNat ∧ opc.toNat ≤ 0xE

/-- One command of each row of R50's table. -/
def oneOfEachCommand : List Instr :=
  [.nop, .extract 0 0 0, .concat 0 0 0 0 0 0, .word 0 0, .dword 0 0 0 0, .classify, .svdParse 0, .svdMark .lim420 0,
    .dtdDecode 0, .clrstat]

theorem opcField_toNat_eq_div (w : Word) : (opcField w).toNat = w.toNat / 2 ^ 28 := by
  have := w.isLt
  rw [Laws.Encoding.opcField_toNat]
  omega

theorem not_reservedOpcode_opcode (i : Instr) : ¬ ReservedOpcode i.opcode := by
  cases i <;> simp [Instr.opcode]

theorem exists_opcode_eq (opc : BitVec 4) (h : ¬ ReservedOpcode opc) : ∃ i : Instr, i.opcode = opc := by
  have hmem : ∀ opc, ¬ ReservedOpcode opc → opc ∈ oneOfEachCommand.map Instr.opcode := by decide
  obtain ⟨i, -, hi⟩ := List.mem_map.mp (hmem opc h)
  exact ⟨i, hi⟩

/-! ### What the decoder answers -/

section Decoder
variable {w : Word} {i j : Instr} {n : Nat} {reserved : BitVec n}

theorem unlessReserved_eq_command : unlessReserved reserved i = .command j ↔ reserved = 0 ∧ i = j := by
  by_cases h : reserved = 0#n <;> simp [unlessReserved, h]

theorem unlessReserved_eq_illegal {why : IllegalWord} :
    unlessReserved reserved i = .illegal why ↔ reserved ≠ 0 ∧ why = .reservedBits := by
  by_cases h : reserved = 0#n
  · simp [unlessReserved, h]
  · simp [unlessReserved, h, eq_comm (a := why)]

theorem unlessReserved_width_zero (reserved : BitVec 0) : unlessReserved reserved i = .command i :=
  unlessReserved_eq_command.mpr ⟨BitVec.of_length_zero, rfl⟩

theorem decode_of_opcField (h : opcField w = i.opcode) :
    decode w = unlessReserved (i.reservedOf w) (i.withFieldsOf w) := by
  unfold decode
  cases i <;> simp [h, Instr.opcode, Instr.reservedOf, Instr.reservedFrom, Instr.withFieldsOf,
    unlessReserved_width_zero]

theorem decode_of_reservedOpcode (h : ReservedOpcode (opcField w)) : decode w = .illegal .reservedOpcode := by
  unfold decode
  split
  case h_11 => rfl
  all_goals omega

/-- What a word can be: one under a reserved opcode, or one under the opcode of a command, read in its format. -/
theorem decode_cases (w : Word) :
    (ReservedOpcode (opcField w) ∧ decode w = .illegal .reservedOpcode) ∨
    ∃ i : Instr, opcField w = i.opcode ∧ decode w = unlessReserved (i.reservedOf w) (i.withFieldsOf w) := by
  by_cases h : ReservedOpcode (opcField w)
  · exact .inl ⟨h, decode_of_reservedOpcode h⟩
  · obtain ⟨i, hi⟩ := exists_opcode_eq _ h
    exact .inr ⟨i, hi.symm, decode_of_opcField hi.symm⟩

theorem illegalWord_of_reservedOpcode (h : ReservedOpcode (opcField w)) : Machine.illegalWord w = true := by
  rw [ReservedOpcode, opcField_toNat_eq_div] at h
  simp (disch := omega) only [Machine.illegalWord, if_neg]

/-- Under the opcode of a command, the illegal words are those with a nonzero reserved bit (R60). -/
theorem illegalWord_of_opcField (h : opcField w = i.opcode) :
    Machine.illegalWord w = true ↔ i.reservedOf w ≠ 0 := by
  have hopc : w.toNat / 2 ^ 28 = i.opcode.toNat := by rw [← h, opcField_toNat_eq_div]
  have hlt := Nat.mod_lt w.toNat (Nat.two_pow_pos 28)
  rw [Ne, reservedOf_eq_zero_iff, Nat.not_lt, Machine.illegalWord, hopc]
  cases i <;> simp [Instr.opcode, Instr.reservedFrom] <;> omega

end Decoder

/-- Settles O8: the reserved bits of an encoded command are 0 and its fields are the operands. -/
theorem decodeOfEncodeIsTheCommand : Obligations.DecodeOfEncodeIsTheCommand := by
  intro i _
  rw [decode_of_opcField (opcField_encode i), unlessReserved_eq_command]
  exact ⟨reservedOf_encode i, withFieldsOf_encode i⟩

/-- Settles O9: a word that decodes has reserved bits 0, and its opcode and fields joined are the word. -/
theorem encodeOfDecodeIsTheWord : Obligations.EncodeOfDecodeIsTheWord := by
  intro w j h
  obtain ⟨-, hdec⟩ | ⟨i, hop, hdec⟩ := decode_cases w
  · simp [hdec] at h
  · rw [hdec, unlessReserved_eq_command] at h
    obtain ⟨hres, rfl⟩ := h
    exact encode_withFieldsOf hop hres

/-- Settles O10: both the decoder and R60's arithmetic split on the opcode, then on the reserved bits. -/
theorem illegalWordsAreTheReservedOnes : Obligations.IllegalWordsAreTheReservedOnes := by
  intro w
  rw [← opcField_toNat_eq_div]
  obtain ⟨hop, hdec⟩ | ⟨i, hop, hdec⟩ := decode_cases w
  · simp [hdec, hop, illegalWord_of_reservedOpcode hop]
  · have hassigned := not_reservedOpcode_opcode i
    simp [hdec, hop, unlessReserved_eq_illegal, illegalWord_of_opcField hop, hassigned]

/-- Settles O12 by evaluating the encoder, the decoder and the assembler on the table's words. -/
theorem exampleWordsEncodeAndDecode : Obligations.ExampleWordsEncodeAndDecode := by
  unfold Obligations.ExampleWordsEncodeAndDecode
  decide

section FieldsAsOr
open BitVec

/-- Joining `hi` above `lo` is the OR of `lo` and `hi` shifted by the width of `lo`, lowest field first. -/
theorem setWidth_append_eq_or_shiftLeft {m n k : Nat} (hi : BitVec m) (lo : BitVec n) :
    (hi ++ lo).setWidth k = lo.setWidth k ||| hi.setWidth k <<< n := by
  rw [setWidth_append_eq_shiftLeft_setWidth_or, BitVec.or_comm]

/-- Settles O11: the word is taken apart field by field from its low end, which leaves the shifted opcode last. -/
theorem encodedWordIsOrOfShiftedFields : Obligations.EncodedWordIsOrOfShiftedFields := by
  refine ⟨rfl, rfl, rfl, ?_, ?_, ?_, ?_, ?_, ?_, ?_, ?_⟩
  all_goals
    intros
    rw [← setWidth_eq (encode _)]
    simp only [encode, setWidth_append_eq_or_shiftLeft, shiftLeft_or_distrib, ← shiftLeft_add, ← BitVec.or_assoc]
    simp only [selOfFlag, Nat.reduceAdd, reduceSetWidth, reduceHShiftLeft, or_zero]
    refine (BitVec.or_comm _ _).trans ?_
    simp only [BitVec.or_assoc]

end FieldsAsOr

/-! ### Assembler lines -/

section Assembler
variable {l l' : Source} {i : Instr}

theorem assemble_eq_some_iff : assemble l = some i ↔ l.wellFormed = true ∧ l.expand = i := by
  simp [assemble]

theorem Instr.expand_source (i : Instr) : i.source.expand = i := by
  cases i <;> simp [Instr.source, Source.expand]

/-- Operands that fit their fields come back from them unchanged. -/
theorem Source.source_expand (hc : l.isCommand = true) (hw : l.wellFormed = true) : l.expand.source = l := by
  cases l
  case byte | bit | nibhi | niblo | dbtag | dblen | wordle | wordbe | dwordle => cases hc
  all_goals
    simp [Source.wellFormed] at hw
    simp [Source.expand, Instr.source] <;> omega

/-- A line that has the command of `l'` and is well-formed exactly when `l'` is under a condition assembles to what `l'`
does under the condition, and to nothing otherwise. -/
theorem assemble_eq_ite {c : Prop} [Decidable c] (hw : l.wellFormed = true ↔ c ∧ l'.wellFormed = true)
    (he : l.expand = l'.expand) : assemble l = if c then assemble l' else none := by
  by_cases hc : c <;> simp [assemble, hw, he, hc]

theorem assemble_congr (hw : l.wellFormed = true ↔ l'.wellFormed = true) (he : l.expand = l'.expand) :
    assemble l = assemble l' := by
  simp only [assemble, hw, he]

end Assembler

/-- Settles O14: `expand` and `source` are inverse to each other on the command lines whose operands fit. -/
theorem assemblerInvertsTheCommandLines : Obligations.AssemblerInvertsTheCommandLines := by
  intro l hl i
  rw [assemble_eq_some_iff]
  constructor
  · rintro ⟨hw, rfl⟩
    exact Source.source_expand hl hw
  · rintro rfl
    exact ⟨i.wellFormed_eq_true, i.expand_source⟩

/-- Settles O15: each pseudo-instruction has its expansion's command, and is well-formed exactly when its condition
holds and its expansion is. -/
theorem pseudoInstructionsExpand : Obligations.PseudoInstructionsExpand := by
  intro off n
  refine ⟨assemble_congr ?_ rfl, assemble_eq_ite ?_ rfl, assemble_congr ?_ rfl, assemble_congr ?_ rfl,
    assemble_congr ?_ rfl, assemble_congr ?_ rfl, assemble_eq_ite ?_ rfl, assemble_eq_ite ?_ rfl,
    assemble_eq_ite ?_ rfl⟩
  all_goals simp [Source.wellFormed]
  all_goals omega

end Sys2Proof

/-! The bit-field family: the field of a byte, the joins of bytes, and the four BFX commands. -/

namespace Sys2Proof.Machine

/-! ### The field contract and the arithmetic of fields and joins -/

section Fields
variable {b hi lo : Byte} {shift hs ls : BitVec 3} {width hw lw : BitVec 4}

theorem fieldLegal_iff : fieldLegal shift width = true ↔ width.toNat ≤ 8 ∧ shift.toNat + width.toNat ≤ 8 := by
  simp only [fieldLegal, Bool.and_eq_true, decide_eq_true_eq]

theorem fieldLegal_eq_false_iff :
    fieldLegal shift width = false ↔ width.toNat > 8 ∨ shift.toNat + width.toNat > 8 := by
  rw [← Bool.not_eq_true, fieldLegal_iff, not_and_or, Nat.not_le, Nat.not_le]

/-- A field of width 0 is legal at every shift. -/
theorem fieldLegal_width_zero (shift : BitVec 3) : fieldLegal shift 0 = true :=
  fieldLegal_iff.mpr ⟨Nat.zero_le 8, shift.isLt.le⟩

/-- The field of a byte as integer arithmetic (R68). -/
theorem extractBits_toNat (h : fieldLegal shift width = true) :
    (extractBits b shift width).toNat = b.toNat / 2 ^ shift.toNat % 2 ^ width.toNat := by
  have hmask : 2 ^ width.toNat - 1 < 2 ^ 8 :=
    Nat.sub_one_lt_of_le (Nat.two_pow_pos _) (Nat.pow_le_pow_right Nat.two_pos (fieldLegal_iff.mp h).1)
  rw [extractBits, mask, BitVec.toNat_and, BitVec.toNat_ushiftRight, BitVec.toNat_ofNat,
    Nat.mod_eq_of_lt hmask, Nat.and_two_pow_sub_one_eq_mod, Nat.shiftRight_eq_div_pow]

theorem extractBits_lt (h : fieldLegal shift width = true) : (extractBits b shift width).toNat < 2 ^ width.toNat := by
  rw [extractBits_toNat h]
  exact Nat.mod_lt _ (Nat.two_pow_pos _)

theorem extractBits_width_zero (b : Byte) (shift : BitVec 3) : extractBits b shift 0#4 = 0#8 := by
  simp [extractBits, mask]

/-- The join of two fields does not overflow: it is the upper field times the weight of the lower, plus the lower
(R70). -/
theorem concatBits_toNat (hl : fieldLegal ls lw = true) :
    (concatBits hi hs hw lo ls lw).toNat =
      (extractBits hi hs hw).toNat * 2 ^ lw.toNat + (extractBits lo ls lw).toNat := by
  have hfit : (extractBits hi hs hw).toNat * 2 ^ lw.toNat < 2 ^ 32 := calc
    _ < 2 ^ 8 * 2 ^ lw.toNat := Nat.mul_lt_mul_of_pos_right (extractBits hi hs hw).isLt (Nat.two_pow_pos _)
    _ ≤ 2 ^ 8 * 2 ^ 8 := Nat.mul_le_mul_left _ (Nat.pow_le_pow_right Nat.two_pos (fieldLegal_iff.mp hl).1)
    _ < 2 ^ 32 := by decide
  rw [concatBits, BitVec.toNat_or, BitVec.toNat_shiftLeft, BitVec.toNat_setWidth_of_le (by decide),
    BitVec.toNat_setWidth_of_le (by decide), Nat.shiftLeft_eq, Nat.mod_eq_of_lt hfit, ← Nat.shiftLeft_eq,
    Nat.shiftLeft_add_eq_or_of_lt (extractBits_lt hl)]

theorem concatBits_lt (hh : fieldLegal hs hw = true) (hl : fieldLegal ls lw = true) :
    (concatBits hi hs hw lo ls lw).toNat < 2 ^ (hw.toNat + lw.toNat) := by
  rw [concatBits_toNat hl, Nat.pow_add]
  exact Nat.lt_of_lt_of_le (Nat.add_lt_add_left (extractBits_lt hl) _)
    (by rw [← Nat.succ_mul]; exact Nat.mul_le_mul_right _ (extractBits_lt hh))

theorem concatBits_low_width_zero (hi lo : Byte) (hs ls : BitVec 3) (hw : BitVec 4) :
    concatBits hi hs hw lo ls 0 = (extractBits hi hs hw).setWidth 32 := by
  simp [concatBits, extractBits_width_zero]

theorem concatBits_high_width_zero (hi lo : Byte) (hs ls : BitVec 3) (lw : BitVec 4) :
    concatBits hi hs 0 lo ls lw = (extractBits lo ls lw).setWidth 32 := by
  simp [concatBits, extractBits_width_zero]

/-- The two nibbles of a byte, joined, are the byte (R71). -/
theorem concatBits_nibbles (b : Byte) : concatBits b 4 4 b 0 4 = b.setWidth 32 := by
  have hhi : fieldLegal 4 4 = true := rfl
  have hlo : fieldLegal 0 4 = true := rfl
  apply BitVec.eq_of_toNat_eq
  rw [concatBits_toNat hlo, extractBits_toNat hhi, extractBits_toNat hlo,
    BitVec.toNat_setWidth_of_le (by decide)]
  change b.toNat / 2 ^ 4 % 2 ^ 4 * 2 ^ 4 + b.toNat / 2 ^ 0 % 2 ^ 4 = b.toNat
  omega

theorem bytesToWord_toNat (hi lo : Byte) : (bytesToWord hi lo).toNat = hi.toNat * 256 + lo.toNat := by
  simp only [bytesToWord, Laws.Encoding.toNat_append_add, BitVec.toNat_ofNat]
  omega

end Fields

/-! ### What each BFX command does -/

section Commands
variable {s t : State} {off hoff loff : Offset} {shift hs ls : BitVec 3} {width hw lw : BitVec 4}

theorem exec_extract_of_legal (h : fieldLegal shift width = true) :
    exec (.extract off shift width) s =
      withByte s off.toNat fun b => finishBfx ((extractBits b shift width).setWidth 32) s := if_pos h

theorem exec_extract_of_breach (h : fieldLegal shift width = false) :
    exec (.extract off shift width) s = .next (raise .fieldContract s) :=
  if_neg (Bool.eq_false_iff.mp h)

theorem exec_concat_of_legal (hh : fieldLegal hs hw = true) (hl : fieldLegal ls lw = true) :
    exec (.concat hoff hs hw loff ls lw) s =
      withByte s hoff.toNat fun hi => withByte s loff.toNat fun lo => finishBfx (concatBits hi hs hw lo ls lw) s := by
  simp [exec, execConcat, hh, hl]

theorem exec_concat_of_breach (h : fieldLegal hs hw = false ∨ fieldLegal ls lw = false) :
    exec (.concat hoff hs hw loff ls lw) s = .next (raise .fieldContract s) := by
  by_cases hh : fieldLegal hs hw = false
  · simp [exec, execConcat, hh]
  · simp [exec, execConcat, h.resolve_left hh]

/-- An EXTRACT that answers breached its contract, or took the field of a written byte. -/
theorem exec_extract_next (h : exec (.extract off shift width) s = .next t) :
    (fieldLegal shift width = false ∧ t = raise .fieldContract s) ∨
    fieldLegal shift width = true ∧ ∃ b, s.buf.read off.toNat = some b ∧
      t = complete { s with bfxRes := (extractBits b shift width).setWidth 32 } := by
  cases hlegal : fieldLegal shift width with
  | false =>
    rw [exec_extract_of_breach hlegal] at h
    cases h
    exact .inl ⟨rfl, rfl⟩
  | true =>
    rw [exec_extract_of_legal hlegal] at h
    obtain ⟨b, hread, hb⟩ := withByte_next h
    cases hb
    exact .inr ⟨rfl, b, hread, rfl⟩

/-- A CONCAT that answers had a field that breached its contract, or joined fields of two written bytes. -/
theorem exec_concat_next (h : exec (.concat hoff hs hw loff ls lw) s = .next t) :
    ((fieldLegal hs hw = false ∨ fieldLegal ls lw = false) ∧ t = raise .fieldContract s) ∨
    (fieldLegal hs hw = true ∧ fieldLegal ls lw = true) ∧ ∃ hi lo, s.buf.read hoff.toNat = some hi ∧
      s.buf.read loff.toNat = some lo ∧ t = complete { s with bfxRes := concatBits hi hs hw lo ls lw } := by
  by_cases hbreach : fieldLegal hs hw = false ∨ fieldLegal ls lw = false
  · rw [exec_concat_of_breach hbreach] at h
    cases h
    exact .inl ⟨hbreach, rfl⟩
  · simp only [not_or, Bool.not_eq_false] at hbreach
    rw [exec_concat_of_legal hbreach.1 hbreach.2] at h
    obtain ⟨hi, hhi, hh⟩ := withByte_next h
    obtain ⟨lo, hlo, hl⟩ := withByte_next hh
    cases hl
    exact .inr ⟨hbreach, hi, lo, hhi, hlo, rfl⟩

theorem exec_word_of_read {hi lo : Byte} (hhi : s.buf.read hoff.toNat = some hi)
    (hlo : s.buf.read loff.toNat = some lo) :
    exec (.word hoff loff) s = .next (complete { s with bfxRes := bytesToWord hi lo }) :=
  (withByte_of_read hhi).trans (withByte_of_read hlo)

theorem exec_word_next (h : exec (.word hoff loff) s = .next t) :
    ∃ hi lo, s.buf.read hoff.toNat = some hi ∧ s.buf.read loff.toNat = some lo ∧
      t = complete { s with bfxRes := bytesToWord hi lo } := by
  obtain ⟨hi, hhi, hh⟩ := withByte_next h
  obtain ⟨lo, hlo, hl⟩ := withByte_next hh
  cases hl
  exact ⟨hi, lo, hhi, hlo, rfl⟩

theorem exec_dword_of_read {b3 b2 b1 b0 : Offset} {v3 v2 v1 v0 : Byte} (h3 : s.buf.read b3.toNat = some v3)
    (h2 : s.buf.read b2.toNat = some v2) (h1 : s.buf.read b1.toNat = some v1) (h0 : s.buf.read b0.toNat = some v0) :
    exec (.dword b3 b2 b1 b0) s = .next (complete { s with bfxRes := bytesToDword v3 v2 v1 v0 }) :=
  (withByte_of_read h3).trans <| (withByte_of_read h2).trans <| (withByte_of_read h1).trans (withByte_of_read h0)

theorem exec_dword_next {b3 b2 b1 b0 : Offset} (h : exec (.dword b3 b2 b1 b0) s = .next t) :
    ∃ v3 v2 v1 v0, s.buf.read b3.toNat = some v3 ∧ s.buf.read b2.toNat = some v2 ∧ s.buf.read b1.toNat = some v1 ∧
      s.buf.read b0.toNat = some v0 ∧ t = complete { s with bfxRes := bytesToDword v3 v2 v1 v0 } := by
  obtain ⟨v3, hv3, h3⟩ := withByte_next h
  obtain ⟨v2, hv2, h2⟩ := withByte_next h3
  obtain ⟨v1, hv1, h1⟩ := withByte_next h2
  obtain ⟨v0, hv0, h0⟩ := withByte_next h1
  cases h0
  exact ⟨v3, v2, v1, v0, hv3, hv2, hv1, hv0, rfl⟩

/-- A BFX command that answers raises FieldContract in every state, or completes with one value in every state with the
same bytes at its offsets (R67). -/
theorem exec_bfx_next {i : Instr} (hi : i.isBfx = true) (h : exec i s = .next t) :
    (t = raise .fieldContract s ∧ ∀ s', exec i s' = .next (raise .fieldContract s')) ∨
    ∃ v, t = complete { s with bfxRes := v } ∧ ∀ s' : State, (∀ a ∈ commandReads i, s'.buf.read a = s.buf.read a) →
      exec i s' = .next (complete { s' with bfxRes := v }) := by
  cases i with
  | extract off shift width =>
    obtain ⟨hbreach, rfl⟩ | ⟨hlegal, b, hread, rfl⟩ := exec_extract_next h
    · exact .inl ⟨rfl, fun _ => exec_extract_of_breach hbreach⟩
    · refine .inr ⟨_, rfl, fun s' hs' => ?_⟩
      simp only [commandReads, hlegal, if_true, List.forall_mem_singleton] at hs'
      rw [exec_extract_of_legal hlegal, withByte_of_read (hs'.trans hread), finishBfx]
  | concat hoff hs hw loff ls lw =>
    obtain ⟨hbreach, rfl⟩ | ⟨⟨hh, hl⟩, hi, lo, hhi, hlo, rfl⟩ := exec_concat_next h
    · exact .inl ⟨rfl, fun _ => exec_concat_of_breach hbreach⟩
    · refine .inr ⟨_, rfl, fun s' hs' => ?_⟩
      simp only [commandReads, hh, hl, Bool.and_self, if_true, List.forall_mem_cons] at hs'
      obtain ⟨hhi', hlo', -⟩ := hs'
      rw [exec_concat_of_legal hh hl, withByte_of_read (hhi'.trans hhi), withByte_of_read (hlo'.trans hlo), finishBfx]
  | word =>
    obtain ⟨hi, lo, hhi, hlo, rfl⟩ := exec_word_next h
    refine .inr ⟨_, rfl, fun s' hs' => ?_⟩
    simp only [commandReads, List.forall_mem_cons] at hs'
    obtain ⟨hhi', hlo', -⟩ := hs'
    exact exec_word_of_read (hhi'.trans hhi) (hlo'.trans hlo)
  | dword =>
    obtain ⟨v3, v2, v1, v0, hv3, hv2, hv1, hv0, rfl⟩ := exec_dword_next h
    refine .inr ⟨_, rfl, fun s' hs' => ?_⟩
    simp only [commandReads, List.forall_mem_cons] at hs'
    obtain ⟨h3, h2, h1, h0, -⟩ := hs'
    exact exec_dword_of_read (h3.trans hv3) (h2.trans hv2) (h1.trans hv1) (h0.trans hv0)
  | nop | classify | svdParse | svdMark | dtdDecode | clrstat => cases hi

/-- The bound of a completed CONCAT (R71, R74). -/
theorem concat_bfxRes_lt (h : exec (.concat hoff hs hw loff ls lw) s = .next t) (herr : t.status.err = 0) :
    t.bfxRes.toNat < 2 ^ (hw.toNat + lw.toNat) ∧ t.bfxRes.toNat ≤ 0xFFFF := by
  obtain ⟨-, rfl⟩ | ⟨⟨hh, hl⟩, hi, lo, -, -, rfl⟩ := exec_concat_next h
  · cases herr
  · have hlt := concatBits_lt (hi := hi) (lo := lo) hh hl
    have hwidths : hw.toNat + lw.toNat ≤ 16 := Nat.add_le_add (fieldLegal_iff.mp hh).1 (fieldLegal_iff.mp hl).1
    exact ⟨hlt, Nat.le_of_lt_succ (hlt.trans_le (Nat.pow_le_pow_right Nat.two_pos hwidths))⟩

end Commands

/-! ### Words that decode, and words that raise IllegalCommand -/

section Words
variable {w : Word}

theorem exists_command_of_not_illegalWord (h : illegalWord w = false) : ∃ i, decode w = .command i := by
  cases hdec : decode w with
  | command i => exact ⟨i, rfl⟩
  | illegal why =>
    have hill := (illegalWordsAreTheReservedOnes w).1.mp ⟨why, hdec⟩
    rw [h] at hill
    cases hill

/-- Every illegal word raises IllegalCommand (R60, R111). -/
theorem raisesIllegalCommand_of_illegalWord (h : illegalWord w = true) : RaisesIllegalCommand w := by
  obtain ⟨why, hdec⟩ := (illegalWordsAreTheReservedOnes w).1.mpr h
  intro s
  refine (hostWrite_cmd w).trans ?_
  rw [runCommandWord, hdec]

/-- The reserved bits 27:14 of the formats X and W (R49). -/
theorem illegalWord_of_reserved_27_14 (hopc : w.toNat / 2 ^ 28 = 1 ∨ w.toNat / 2 ^ 28 = 3)
    (hres : w.toNat / 2 ^ 14 % 2 ^ 14 ≠ 0) : illegalWord w = true := by
  have hset : 2 ^ 14 ≤ w.toNat % 2 ^ 28 := by omega
  simp only [illegalWord, if_pos hopc, hset, decide_true]

/-- The formats C and D have no reserved bits (R49). -/
theorem not_illegalWord_of_opcode_2_4 (hopc : w.toNat / 2 ^ 28 = 2 ∨ w.toNat / 2 ^ 28 = 4) :
    illegalWord w = false := by
  have hother : ¬(w.toNat / 2 ^ 28 = 1 ∨ w.toNat / 2 ^ 28 = 3) := by omega
  simp only [illegalWord, if_neg hother, if_pos hopc]

end Words

/-! ### The statements -/

/-- Settles O25: both ways a BFX command ends are the same in every state with the same bytes at its offsets. -/
theorem bfxResultIsAFunctionOfTheNamedBytes : Obligations.BfxResultIsAFunctionOfTheNamedBytes := by
  intro i s s' t hi hreads h
  obtain ⟨rfl, hraise⟩ | ⟨v, rfl, hcomplete⟩ := exec_bfx_next hi h
  · exact ⟨rfl, fun _ => rfl, _, hraise s', rfl, nofun⟩
  · exact ⟨rfl, fun herr => absurd rfl herr, _, hcomplete s' hreads, rfl, fun _ => rfl⟩

/-- Settles O26. -/
theorem extractTakesTheField : Obligations.ExtractTakesTheField := by
  obtain ⟨-, -, -, hword, -⟩ := encodedWordIsOrOfShiftedFields
  refine fun off shift width => ⟨hword off shift width,
    fun s hbreach => exec_extract_of_breach (fieldLegal_eq_false_iff.mpr hbreach), fun s b hw hsw hread => ?_,
    fun w hopc hres => raisesIllegalCommand_of_illegalWord (illegalWord_of_reserved_27_14 (.inl hopc) hres)⟩
  have hlegal := fieldLegal_iff.mpr ⟨hw, hsw⟩
  rw [exec_extract_of_legal hlegal, withByte_of_read hread, finishBfx, ← extractBits_toNat hlegal, BitVec.ofNat_toNat]

/-- Settles O27: each of the three commands raises FieldContract before it reads. -/
theorem fieldContractBreachReadsNothing : Obligations.FieldContractBreachReadsNothing := by
  intro s o o' sh sh' w w' hbreach i hi
  have hillegal := fieldLegal_eq_false_iff.mpr hbreach
  have hraise : exec i s = .next (raise .fieldContract s) := by
    simp only [List.mem_cons, List.not_mem_nil, or_false] at hi
    obtain rfl | rfl | rfl := hi
    · exact exec_extract_of_breach hillegal
    · exact exec_concat_of_breach (.inl hillegal)
    · exact exec_concat_of_breach (.inr hillegal)
  exact ⟨_, hraise, rfl, rfl, fun k => Status.raised_stickyBit _ _ k⟩

/-- Settles O28. -/
theorem concatJoinsTwoFields : Obligations.ConcatJoinsTwoFields := by
  obtain ⟨-, -, -, -, hword, -⟩ := encodedWordIsOrOfShiftedFields
  refine fun hoff hs hw loff ls lw => ⟨hword hoff hs hw loff ls lw, fun s hbreach => exec_concat_of_breach ?_,
    fun s hi lo hhw hhsw hlw hlsw hhi hlo => ?_,
    fun w hopc => exists_command_of_not_illegalWord (not_illegalWord_of_opcode_2_4 (.inl hopc))⟩
  · rwa [fieldLegal_eq_false_iff, fieldLegal_eq_false_iff, or_assoc]
  · have hh := fieldLegal_iff.mpr ⟨hhw, hhsw⟩
    have hl := fieldLegal_iff.mpr ⟨hlw, hlsw⟩
    rw [exec_concat_of_legal hh hl, withByte_of_read hhi, withByte_of_read hlo, finishBfx, ← extractBits_toNat hh,
      ← extractBits_toNat hl, ← concatBits_toNat hl, BitVec.ofNat_toNat, BitVec.setWidth_eq]

/-- Settles O29: a field of width 0 is legal, has the value 0 and shifts the other by nothing. -/
theorem concatCornerCases : Obligations.ConcatCornerCases := by
  refine ⟨fun _ _ _ _ _ _ _ _ => concat_bfxRes_lt, fun s hoff hs hw loff ls lo hlo => ?_,
    fun s hoff hs hi loff ls lw hhi => ?_, fun s a b hb => ?_⟩
  · cases hh : fieldLegal hs hw with
    | false => rw [exec_concat_of_breach (.inl hh), exec_extract_of_breach hh]
    | true =>
      simp only [exec_concat_of_legal hh (fieldLegal_width_zero ls), exec_extract_of_legal hh, withByte_of_read hlo,
        concatBits_low_width_zero]
  · cases hl : fieldLegal ls lw with
    | false => rw [exec_concat_of_breach (.inr hl), exec_extract_of_breach hl]
    | true =>
      simp only [exec_concat_of_legal (fieldLegal_width_zero hs) hl, exec_extract_of_legal hl, withByte_of_read hhi,
        concatBits_high_width_zero]
  · rw [exec_concat_of_legal rfl rfl, withByte_of_read hb, withByte_of_read hb, concatBits_nibbles, finishBfx]

/-- Settles O30. -/
theorem wordJoinsTwoBytes : Obligations.WordJoinsTwoBytes := by
  obtain ⟨-, -, -, -, -, hword, -⟩ := encodedWordIsOrOfShiftedFields
  refine fun hoff loff => ⟨hword hoff loff, fun s hi lo hhi hlo => ?_,
    fun w hopc hres => raisesIllegalCommand_of_illegalWord (illegalWord_of_reserved_27_14 (.inr hopc) hres)⟩
  rw [exec_word_of_read hhi hlo, ← bytesToWord_toNat, BitVec.ofNat_toNat, BitVec.setWidth_eq]

/-- Settles O31. -/
theorem dwordJoinsFourBytes : Obligations.DwordJoinsFourBytes := by
  obtain ⟨-, -, -, -, -, -, hword, -⟩ := encodedWordIsOrOfShiftedFields
  refine fun b3 b2 b1 b0 => ⟨hword b3 b2 b1 b0, fun s v3 v2 v1 v0 h3 h2 h1 h0 => ?_,
    fun w hopc => exists_command_of_not_illegalWord (not_illegalWord_of_opcode_2_4 (.inr hopc))⟩
  rw [exec_dword_of_read h3 h2 h1 h0, bytesToDword_eq_ofNat]

/-- Settles O32, each bound from what the command's result is. -/
theorem bfxResultsAreBounded : Obligations.BfxResultsAreBounded := by
  refine ⟨fun s off shift width t h herr => ?_, fun _ _ _ _ _ _ _ _ => concat_bfxRes_lt,
    fun s hoff loff t h => ?_⟩
  · obtain ⟨-, rfl⟩ | ⟨hlegal, b, -, rfl⟩ := exec_extract_next h
    · cases herr
    · rw [complete_bfxRes, BitVec.toNat_setWidth_of_le (by decide)]
      exact ⟨extractBits_lt hlegal, Nat.le_of_lt_succ (extractBits b shift width).isLt⟩
  · obtain ⟨hi, lo, -, -, rfl⟩ := exec_word_next h
    rw [complete_bfxRes, bytesToWord_toNat]
    omega

end Sys2Proof.Machine

/-! The classifier family: the class of a tag, the words CLASSIFY leaves in CLS_RES and STATUS, and the command. -/

namespace Sys2Proof.Machine

/-! ### Words with a reserved bit set -/

/-- A word under the opcode of a command with a reserved bit set in that command's format (R60, R111). -/
theorem raisesIllegalCommand_of_reservedFrom_le {w : Word} (i : Instr) (hopc : w.toNat / 2 ^ 28 = i.opcode.toNat)
    (hres : 2 ^ i.reservedFrom ≤ w.toNat % 2 ^ 28) : RaisesIllegalCommand w := by
  have hfield : opcField w = i.opcode := BitVec.eq_of_toNat_eq ((opcField_toNat_eq_div w).trans hopc)
  refine raisesIllegalCommand_of_illegalWord ((illegalWord_of_opcField hfield).mpr ?_)
  rwa [Ne, reservedOf_eq_zero_iff, Nat.not_lt]

/-! ### The word of STATUS after each end of a command -/

section StatusWord
variable (st : Status) (e : Error)

/-- Masking ERR out of the STATUS word leaves STICKY (R16). -/
theorem Status.word_and_maskErr : st.word &&& 0xFFFFFFF0#32 = 0#5 ++ st.sticky ++ 0#13 ++ 0#4 := by
  have hmask : 0xFFFFFFF0#32 = BitVec.allOnes 5 ++ BitVec.allOnes 10 ++ BitVec.allOnes 13 ++ 0#4 := by decide
  calc st.word &&& 0xFFFFFFF0#32
    _ = (0#5 ++ st.sticky ++ 0#13 ++ st.err) &&&
        (BitVec.allOnes 5 ++ BitVec.allOnes 10 ++ BitVec.allOnes 13 ++ 0#4) := by rw [hmask]; rfl
    _ = _ := by simp only [BitVec.and_append, BitVec.and_allOnes, BitVec.and_zero]

/-- Raising an error rewrites ERR and sets one STICKY bit of the STATUS word (R16, R17, R113). -/
theorem Status.raised_word :
    (st.raised e).word =
      (st.word &&& 0xFFFFFFF0#32) ||| BitVec.ofNat 32 e.code.toNat ||| (1#32 <<< (16 + e.code.toNat)) := by
  have hset : BitVec.ofNat 32 e.code.toNat ||| (1#32 <<< (16 + e.code.toNat)) =
      0#5 ++ (1#10 <<< (e.code.toNat - 1)) ++ 0#13 ++ e.code := by cases e <;> decide
  calc (st.raised e).word
    _ = (0#5 ++ st.sticky ++ 0#13 ++ 0#4) ||| (0#5 ++ (1#10 <<< (e.code.toNat - 1)) ++ 0#13 ++ e.code) := by
      simp only [Status.word, Status.raised, BitVec.or_append, BitVec.or_zero, BitVec.zero_or]
    _ = _ := by rw [BitVec.or_assoc, hset, Status.word_and_maskErr]

end StatusWord

/-! ### The class of a tag and the word of CLS_RES -/

section Classes
variable {known : List Byte} {tag : Byte}

theorem BlockClass.code_toNat_eq_three_iff {c : BlockClass} : c.code.toNat = 3 ↔ c = .unsupported := by
  cases c <;> decide

theorem classOf_eq_unsupported_iff :
    classOf known tag = .unsupported ↔ tag ≠ 0x00#8 ∧ tag ≠ 0x02#8 ∧ tag ∉ known := by
  unfold classOf
  split_ifs with hbase hcta hknown
  · simp [hbase]
  · simp [hcta]
  · simp [List.contains_iff_mem.mp hknown]
  · simp [hbase, hcta, mt List.contains_iff_mem.mpr hknown]

/-- The class number of a tag, by the tests of R77 in their order. -/
theorem classOf_code_toNat (known : List Byte) (tag : Byte) :
    (classOf known tag).code.toNat =
      if tag.toNat = 0x00 then 0 else if tag.toNat = 0x02 then 1 else if tag ∈ known then 2 else 3 := by
  have hbase : tag.toNat = 0x00 ↔ tag = Config.baseTag := BitVec.toNat_inj (y := Config.baseTag)
  have hcta : tag.toNat = 0x02 ↔ tag = Config.ctaTag := BitVec.toNat_inj (y := Config.ctaTag)
  simp only [classOf, hbase, hcta, List.contains_iff_mem]
  split_ifs <;> rfl

/-- The word of CLS_RES as integer arithmetic: VALID, TAG and CLASS in their places (R21). -/
theorem ClsRes.word_toNat (r : ClsRes) :
    r.word.toNat = r.valid.toNat * 2 ^ 31 + r.tag.toNat * 2 ^ 8 + r.cls.code.toNat := by
  simp only [ClsRes.word, Laws.Encoding.toNat_append_add, BitVec.toNat_ofBool, BitVec.toNat_ofNat]
  omega

end Classes

/-! ### The command -/

section Classify
variable {s : State} {tag : Byte}

/-- CLASSIFY over a written tag byte: CLS_RES whatever the class, and the end of the command from the class (R77). -/
theorem exec_classify_of_read (hread : s.buf.read 0 = some tag) :
    exec .classify s = .next { s with
      clsRes := ⟨classOf s.knownExtTags tag, tag, true⟩
      status := if classOf s.knownExtTags tag = .unsupported then s.status.raised .unsupportedBlock
        else s.status.completed } := by
  refine (withByte_of_read hread).trans ?_
  by_cases hcls : classOf s.knownExtTags tag = .unsupported
  · simp only [if_pos hcls]
    rfl
  · simp only [if_neg hcls]
    rfl

end Classify

/-! ### The statements -/

/-- Settles O34: the class number of the tag decides CLS_RES and how the command ends. -/
theorem classifyDecidesFromTheTagByte : Obligations.ClassifyDecidesFromTheTagByte := by
  refine ⟨rfl, fun w hopc hres =>
    raisesIllegalCommand_of_reservedFrom_le .classify hopc (Nat.one_le_iff_ne_zero.mpr hres), fun s tag c hread hc => ?_⟩
  have hcode : c = (classOf s.knownExtTags tag).code.toNat := hc.trans (classOf_code_toNat _ _).symm
  refine ⟨_, exec_classify_of_read hread, ?_, ?_⟩
  · simp only [hcode, BlockClass.code_toNat_eq_three_iff, raise_status, complete_status]
  · rw [ClsRes.word_toNat, hcode, Bool.toNat_true, Nat.one_mul]

/-- Settles O35: an unsupported tag takes the branch of CLASSIFY that raises, after CLS_RES is written. -/
theorem unsupportedTagStillWritesClsRes : Obligations.UnsupportedTagStillWritesClsRes := by
  intro s tag hread hbase hcta hknown
  have hcls := classOf_eq_unsupported_iff.mpr ⟨hbase, hcta, hknown⟩
  refine ⟨_, exec_classify_of_read hread, by rw [hcls], ?_⟩
  simp only [if_pos hcls, Status.raised_word, BitVec.or_assoc]
  rfl

end Sys2Proof.Machine

/-! The short-video-descriptor family: the word of SVD_RES bit by bit, the marking of its record, and SVD_MARK. -/

namespace Sys2Proof.Machine

/-! ### The word of SVD_RES -/

section SvdWord
variable (r q : SvdRes) (code : BitVec 7)

theorem SvdRes.word_injective {r q : SvdRes} (h : r.word = q.word) : r = q := by
  obtain ⟨hcode, hnative, hlim, hycc, -, hvalid⟩ := r.word_layout
  obtain ⟨hcode', hnative', hlim', hycc', -, hvalid'⟩ := q.word_layout
  rw [h] at hcode hnative hlim hycc hvalid
  rw [SvdRes.mk.injEq]
  exact ⟨hcode.symm.trans hcode', hnative.symm.trans hnative', hlim.symm.trans hlim', hycc.symm.trans hycc',
    hvalid.symm.trans hvalid'⟩

/-- The AND of two words of SVD_RES, field by field (R22). -/
theorem SvdRes.word_and_word : r.word &&& q.word = SvdRes.word
    ⟨r.code &&& q.code, r.native && q.native, r.lim420 && q.lim420, r.ycc420 && q.ycc420, r.valid && q.valid⟩ := by
  calc r.word &&& q.word
    _ = (BitVec.ofBool r.valid ++ 0#21 ++ BitVec.ofBool r.ycc420 ++ BitVec.ofBool r.lim420 ++
          BitVec.ofBool r.native ++ r.code) &&&
        (BitVec.ofBool q.valid ++ 0#21 ++ BitVec.ofBool q.ycc420 ++ BitVec.ofBool q.lim420 ++
          BitVec.ofBool q.native ++ q.code) := rfl
    _ = _ := by
      simp only [BitVec.and_append, BitVec.ofBool_and_ofBool, BitVec.and_zero]
      rfl

/-- The OR of two words of SVD_RES, field by field (R22). -/
theorem SvdRes.word_or_word : r.word ||| q.word = SvdRes.word
    ⟨r.code ||| q.code, r.native || q.native, r.lim420 || q.lim420, r.ycc420 || q.ycc420, r.valid || q.valid⟩ := by
  calc r.word ||| q.word
    _ = (BitVec.ofBool r.valid ++ 0#21 ++ BitVec.ofBool r.ycc420 ++ BitVec.ofBool r.lim420 ++
          BitVec.ofBool r.native ++ r.code) |||
        (BitVec.ofBool q.valid ++ 0#21 ++ BitVec.ofBool q.ycc420 ++ BitVec.ofBool q.lim420 ++
          BitVec.ofBool q.native ++ q.code) := rfl
    _ = _ := by
      simp only [BitVec.or_append, BitVec.ofBool_or_ofBool, BitVec.or_zero]
      rfl

/-- The bits of SVD_RES that SVD_MARK compares, VALID and CODE (R84). -/
theorem SvdRes.word_and_maskValidCode :
    r.word &&& 0x8000007F#32 = SvdRes.word ⟨r.code, false, false, false, r.valid⟩ := by
  have hmask : 0x8000007F#32 = SvdRes.word ⟨BitVec.allOnes 7, false, false, false, true⟩ := by decide
  simp only [hmask, SvdRes.word_and_word, BitVec.and_allOnes, Bool.and_false, Bool.and_true]

/-- The word of a valid record with no bit set but those of CODE (R22). -/
theorem SvdRes.word_of_code : 0x80000000#32 ||| code.setWidth 32 = SvdRes.word ⟨code, false, false, false, true⟩ := by
  have hvalid : 0x80000000#32 = SvdRes.word ⟨0, false, false, false, true⟩ := by decide
  have hcode : code.setWidth 32 = SvdRes.word ⟨code, false, false, false, false⟩ := by
    apply BitVec.eq_of_toNat_eq
    simp only [SvdRes.word, Laws.Encoding.toNat_append_add, BitVec.toNat_setWidth, BitVec.toNat_ofBool,
      BitVec.toNat_ofNat, Bool.toNat_false]
    omega
  simp only [hvalid, hcode, SvdRes.word_or_word, BitVec.ofNat_eq_ofNat, BitVec.zero_or, Bool.or_self, Bool.or_false]

/-- The comparison of R84 on the register's word: VALID is 1 and CODE is the operand. -/
theorem SvdRes.word_matches_iff :
    r.word &&& 0x8000007F#32 = 0x80000000#32 ||| code.setWidth 32 ↔ r.valid = true ∧ r.code = code := by
  rw [SvdRes.word_and_maskValidCode, SvdRes.word_of_code]
  constructor
  · intro h
    obtain ⟨hcode, -, -, -, hvalid⟩ := SvdRes.mk.inj (SvdRes.word_injective h)
    exact ⟨hvalid, hcode⟩
  · rintro ⟨hvalid, hcode⟩
    rw [hvalid, hcode]

end SvdWord

/-! ### The marking of a record -/

section Mark
variable {r : SvdRes} {sel : Flag420} {code : BitVec 7}

/-- On a match exactly the selected flag is set (R84). -/
theorem markSvd_of_match (hvalid : r.valid = true) (hcode : r.code = code) :
    markSvd sel code r =
      { r with lim420 := r.lim420 || decide (sel = .lim420), ycc420 := r.ycc420 || decide (sel = .ycc420) } := by
  cases sel <;> simp [markSvd, hvalid, hcode]

theorem markSvd_of_not_match (h : ¬(r.valid = true ∧ r.code = code)) : markSvd sel code r = r := by
  simp [markSvd, h]

/-- On a match the word gains the bit of the selected flag (R22, R84). -/
theorem markSvd_word_of_match (hvalid : r.valid = true) (hcode : r.code = code) :
    (markSvd sel code r).word = r.word ||| (match sel with | .lim420 => 0x100#32 | .ycc420 => 0x200#32) := by
  have hlim : 0x100#32 = SvdRes.word ⟨0, false, true, false, false⟩ := by decide
  have hycc : 0x200#32 = SvdRes.word ⟨0, false, false, true, false⟩ := by decide
  rw [markSvd_of_match hvalid hcode]
  cases sel <;> simp [hlim, hycc, SvdRes.word_or_word]

/-- Marking sets a flag or leaves it, whatever the record (R85). -/
theorem markSvd_keeps_flags :
    (r.lim420 = true → (markSvd sel code r).lim420 = true) ∧ (r.ycc420 = true → (markSvd sel code r).ycc420 = true) := by
  by_cases h : r.valid = true ∧ r.code = code
  · obtain ⟨hvalid, hcode⟩ := h
    rw [markSvd_of_match hvalid hcode]
    exact ⟨Bool.or_inl, Bool.or_inl⟩
  · rw [markSvd_of_not_match h]
    exact ⟨id, id⟩

theorem markSvd_idempotent : markSvd sel code (markSvd sel code r) = markSvd sel code r := by
  by_cases h : r.valid = true ∧ r.code = code
  · obtain ⟨hvalid, hcode⟩ := h
    simp only [markSvd_of_match, hvalid, hcode, Bool.or_assoc, Bool.or_self]
  · rw [markSvd_of_not_match h, markSvd_of_not_match h]

/-- SVD_MARK completes in every state, with its record marked (R84). -/
theorem exec_svdMark (sel : Flag420) (code : BitVec 7) (s : State) :
    exec (.svdMark sel code) s = .next (complete { s with svdRes := markSvd sel code s.svdRes }) := rfl

end Mark

/-! ### The statements -/

/-- Settles O38: the comparison and the flag set are those of `markSvd`, read off the register's word. -/
theorem svdMarkSetsTheSelectedFlagOnAMatch : Obligations.SvdMarkSetsTheSelectedFlagOnAMatch := by
  intro sel code
  obtain ⟨-, -, -, -, -, -, -, -, hlim, hycc, -⟩ := encodedWordIsOrOfShiftedFields
  refine ⟨?_, fun w hopc hres => ?_, fun s => ⟨_, exec_svdMark sel code s, rfl, ?_⟩⟩
  · cases sel with
    | lim420 => rw [hlim, BitVec.or_zero]
    | ycc420 => exact hycc code
  · have hset : 2 ^ 8 ≤ w.toNat % 2 ^ 28 := by omega
    exact raisesIllegalCommand_of_reservedFrom_le (.svdMark sel code) hopc hset
  · simp only [complete_svdRes, SvdRes.word_matches_iff]
    split_ifs with h
    · obtain ⟨hvalid, hcode⟩ := h
      exact markSvd_word_of_match hvalid hcode
    · rw [markSvd_of_not_match h]

/-- Settles O39: the next state holds the marked record; marking is idempotent and only sets flags. -/
theorem svdMarkOnlySetsAndIsIdempotent : Obligations.SvdMarkOnlySetsAndIsIdempotent := by
  intro s sel code t h
  rw [exec_svdMark, Host.Outcome.next.injEq] at h
  subst h
  obtain ⟨hlim, hycc⟩ := markSvd_keeps_flags (r := s.svdRes) (sel := sel) (code := code)
  refine ⟨?_, hlim, hycc, markSvd_of_match, markSvd_of_invalid sel code, fun _ => rfl⟩
  rw [exec_svdMark, complete_svdRes, markSvd_idempotent]
  rfl

end Sys2Proof.Machine

/-! The detailed-timing family: the check values and fields of a descriptor as integer arithmetic and as CONCATs, and
DTD_DECODE check by check. -/

namespace Sys2Proof.Machine

/-! ### Integer arithmetic on the bytes of a descriptor -/

section Arithmetic
variable {d : Fin 18 → Byte}

/-- Some bits of a byte joined above a lower part: the shape of every geometry field (R89). -/
theorem extractLsb'_append_toNat {n : Nat} (b : Byte) (start len : Nat) (lo : BitVec n) :
    (b.extractLsb' start len ++ lo).toNat = b.toNat / 2 ^ start % 2 ^ len * 2 ^ n + lo.toNat := by
  rw [Laws.Encoding.toNat_append_add, BitVec.extractLsb'_toNat, Nat.shiftRight_eq_div_pow]

theorem pixelClock_toNat (d : Fin 18 → Byte) : (pixelClock d).toNat = (d 1).toNat * 256 + (d 0).toNat :=
  Laws.Encoding.toNat_append_add (d 1) (d 0)

theorem pixelClock_eq_zero_iff : pixelClock d = 0 ↔ (d 1).toNat * 256 + (d 0).toNat = 0 := by
  rw [← BitVec.toNat_inj, pixelClock_toNat]
  rfl

/-- The sync type is legal exactly when bits 4:3 of byte 17 are 11 (R96). -/
theorem syncTypeLegal_iff : syncTypeLegal d = true ↔ (d 17).toNat / 8 % 4 = 3 := by
  simp only [syncTypeLegal, BitVec.getLsbD, Nat.testBit_eq_decide_div_mod_eq, Bool.and_eq_true, decide_eq_true_eq]
  omega

/-- The word of DTD_FLAGS as integer arithmetic: PREP and the reserved bits add nothing (R29, R99). -/
theorem DtdFlags.word_toNat (r : DtdFlags) :
    r.word.toNat = r.valid.toNat * 2 ^ 31 + r.hsyncPos.toNat * 4 + r.vsyncPos.toNat * 2 + r.interlaced.toNat := by
  simp only [DtdFlags.word, Laws.Encoding.toNat_append_add, BitVec.toNat_ofBool, BitVec.toNat_ofNat]
  omega

end Arithmetic

/-! ### DTD_DECODE, check by check -/

section Decode
variable {s : State} {off : Offset} {d : Fin 18 → Byte}

theorem exec_dtdDecode_of_outside (hoff : Config.lastDtdOffset < off.toNat) :
    exec (.dtdDecode off) s = failDtd .outOfRange s := if_pos hoff

/-- Inside the window the two checks of the descriptor decide, the pixel clock first (R98). -/
theorem exec_dtdDecode_of_read (hoff : off.toNat ≤ Config.lastDtdOffset) (hread : DescriptorAt s off d) :
    exec (.dtdDecode off) s =
      if pixelClock d = 0 then failDtd .invalidPixelClock s
      else if !syncTypeLegal d then failDtd .invalidSyncType s
      else .next (complete (writeTiming d s)) :=
  (if_neg (Nat.not_lt.mpr hoff)).trans (withDescriptor_of_read hread)

theorem exec_dtdDecode_of_zeroClock (hoff : off.toNat ≤ Config.lastDtdOffset) (hread : DescriptorAt s off d)
    (hclock : pixelClock d = 0) : exec (.dtdDecode off) s = failDtd .invalidPixelClock s := by
  rw [exec_dtdDecode_of_read hoff hread, if_pos hclock]

theorem exec_dtdDecode_of_illegalSync (hoff : off.toNat ≤ Config.lastDtdOffset) (hread : DescriptorAt s off d)
    (hclock : pixelClock d ≠ 0) (hsync : syncTypeLegal d = false) :
    exec (.dtdDecode off) s = failDtd .invalidSyncType s := by
  rw [exec_dtdDecode_of_read hoff hread, if_neg hclock, hsync]
  rfl

/-- A DTD_DECODE that ends without error wrote the timing of the descriptor in its window (R88). -/
theorem exec_dtdDecode_completed {t : State} (h : exec (.dtdDecode off) s = .next t) (herr : t.status.err = 0) :
    ∃ d, off.toNat ≤ Config.lastDtdOffset ∧ DescriptorAt s off d ∧ t = complete (writeTiming d s) := by
  cases exec_effect h with
  | dtdDecodes _ d hoff hread => exact ⟨d, hoff, hread, rfl⟩
  | dtdOutOfRange | dtdZeroClock | dtdIllegalSync => cases herr
  | bfxResult _ hi | bfxBreach _ hi => cases hi

end Decode

/-! ### Fields as CONCATs -/

section FieldsAsConcats
variable {hi lo : Byte} {hs ls : BitVec 3} {hw lw : BitVec 4}

/-- CONCAT's result is the bits of the one byte joined above the bits of the other (R70). -/
theorem concatBits_eq_append (hh : fieldLegal hs hw = true) (hl : fieldLegal ls lw = true) :
    concatBits hi hs hw lo ls lw =
      (hi.extractLsb' hs.toNat hw.toNat ++ lo.extractLsb' ls.toNat lw.toNat).setWidth 32 := by
  have hwidths : hw.toNat + lw.toNat ≤ 32 :=
    (Nat.add_le_add (fieldLegal_iff.mp hh).1 (fieldLegal_iff.mp hl).1).trans (by decide)
  apply BitVec.eq_of_toNat_eq
  rw [concatBits_toNat hl, extractBits_toNat hh, extractBits_toNat hl, BitVec.toNat_setWidth_of_le hwidths,
    extractLsb'_append_toNat, BitVec.extractLsb'_toNat, Nat.shiftRight_eq_div_pow]

variable {s : State} {off : Offset} {d : Fin 18 → Byte}

theorem DescriptorAt.read (hread : DescriptorAt s off d) (hoff : off.toNat ≤ Config.lastDtdOffset) (i : Fin 18) :
    s.buf.read (off + BitVec.ofNat 7 i.val).toNat = some (d i) := by
  have hsum : (off + BitVec.ofNat 7 i.val).toNat = off.toNat + i.val := by
    have hlt := i.isLt
    simp only [Config.lastDtdOffset] at hoff
    rw [BitVec.toNat_add, BitVec.toNat_ofNat]
    omega
  rw [hsum, hread]

/-- Bits of one byte of a descriptor above bits of another, as a CONCAT of their offsets (R70). -/
theorem DescriptorAt.concatGives (hread : DescriptorAt s off d) (hoff : off.toNat ≤ Config.lastDtdOffset)
    (hh : fieldLegal hs hw = true) (hl : fieldLegal ls lw = true) (i j : Fin 18) :
    ConcatGives s (off + BitVec.ofNat 7 i.val) hs hw (off + BitVec.ofNat 7 j.val) ls lw
      (((d i).extractLsb' hs.toNat hw.toNat ++ (d j).extractLsb' ls.toNat lw.toNat).setWidth 32) := by
  rw [ConcatGives, exec_concat_of_legal hh hl, withByte_of_read (hread.read hoff i),
    withByte_of_read (hread.read hoff j), finishBfx, concatBits_eq_append hh hl]

/-- The case of a whole lower byte (R91 to R93, R95). -/
theorem DescriptorAt.concatGives_byte (hread : DescriptorAt s off d) (hoff : off.toNat ≤ Config.lastDtdOffset)
    (hh : fieldLegal hs hw = true) (i j : Fin 18) :
    ConcatGives s (off + BitVec.ofNat 7 i.val) hs hw (off + BitVec.ofNat 7 j.val) 0 8
      (((d i).extractLsb' hs.toNat hw.toNat ++ d j).setWidth 32) := by
  have hbyte : (d j).extractLsb' 0 8 = d j := BitVec.extractLsb'_eq_self
  have hconcat : ConcatGives s (off + BitVec.ofNat 7 i.val) hs hw (off + BitVec.ofNat 7 j.val) 0 8
      (((d i).extractLsb' hs.toNat hw.toNat ++ (d j).extractLsb' 0 8).setWidth 32) := hread.concatGives hoff hh rfl i j
  rwa [hbyte] at hconcat

end FieldsAsConcats

/-! ### The bits that are not decoded -/

section NotDecoded
variable {d d' : Fin 18 → Byte}

theorem getLsbD_eq_of_and_eq {n : Nat} {x y m : BitVec n} (h : x &&& m = y &&& m) {k : Nat}
    (hk : m.getLsbD k = true) : x.getLsbD k = y.getLsbD k := by
  have hbit := congrArg (·.getLsbD k) h
  simpa only [BitVec.getLsbD_and, hk, Bool.and_true] using hbit

theorem pixelClock_congr (hbytes : ∀ i : Fin 18, i.val < 15 → d' i = d i) : pixelClock d' = pixelClock d := by
  rw [pixelClock, pixelClock, hbytes 1 (by decide), hbytes 0 (by decide)]

theorem syncTypeLegal_congr (hbits : d' 17 &&& 0x9E#8 = d 17 &&& 0x9E#8) : syncTypeLegal d' = syncTypeLegal d := by
  rw [syncTypeLegal, syncTypeLegal, getLsbD_eq_of_and_eq hbits (by decide), getLsbD_eq_of_and_eq hbits (by decide)]

/-- The timing depends on bytes 0 to 14 and on bits 7, 2 and 1 of byte 17 alone (R100). -/
theorem writeTiming_congr (hbytes : ∀ i : Fin 18, i.val < 15 → d' i = d i)
    (hbits : d' 17 &&& 0x9E#8 = d 17 &&& 0x9E#8) (s : State) : writeTiming d' s = writeTiming d s := by
  simp only [writeTiming, pixelClock_congr hbytes, getLsbD_eq_of_and_eq hbits (k := 7) (by decide),
    getLsbD_eq_of_and_eq hbits (k := 2) (by decide), getLsbD_eq_of_and_eq hbits (k := 1) (by decide)]
  simp (disch := decide) only [hbytes]

end NotDecoded

/-! ### The statements -/

/-- Settles O41. -/
theorem dtdDecodeWritesTheSevenRegisters : Obligations.DtdDecodeWritesTheSevenRegisters := by
  intro s off d hoff hread hclock hsync
  refine ⟨_, exec_dtdDecode_of_legal hoff hread (mt pixelClock_eq_zero_iff.mp hclock) (syncTypeLegal_iff.mpr hsync),
    rfl, pixelClock_toNat d, ?_⟩
  simp only [complete_dtdH0, complete_dtdH1, complete_dtdV0, complete_dtdV1, complete_dtdImg, complete_dtdFlags,
    writeTiming_dtdH0, writeTiming_dtdH1, writeTiming_dtdV0, writeTiming_dtdV1, writeTiming_dtdImg,
    writeTiming_dtdFlags, extractLsb'_append_toNat, BitVec.extractLsb'_toNat, Nat.shiftRight_eq_div_pow,
    DtdFlags.word_toNat, BitVec.getLsbD, Nat.toNat_testBit, Bool.toNat_true]
  omega

/-- Settles O42: each check is reached once the ones before it have passed. -/
theorem dtdChecksFailInOrder : Obligations.DtdChecksFailInOrder := by
  refine ⟨fun w hopc hres => ?_, fun s off => ⟨exec_dtdDecode_of_outside, fun d hoff hread => ⟨fun hzero => ?_,
    fun hnonzero hsync => ?_⟩⟩⟩
  · have hset : 2 ^ 7 ≤ w.toNat % 2 ^ 28 := by omega
    exact raisesIllegalCommand_of_reservedFrom_le (.dtdDecode 0) hopc hset
  · exact exec_dtdDecode_of_zeroClock hoff hread (pixelClock_eq_zero_iff.mpr (by omega))
  · have hclock : pixelClock d ≠ 0 := by rw [Ne, pixelClock_eq_zero_iff]; omega
    exact exec_dtdDecode_of_illegalSync hoff hread hclock (Bool.eq_false_iff.mpr (mt syncTypeLegal_iff.mp hsync))

/-- Settles O43: the timing written is the CONCATs of the descriptor's bytes, field by field. -/
theorem dtdFieldsAreTheConcatsOfTheirRules : Obligations.DtdFieldsAreTheConcatsOfTheirRules := by
  intro s off t h herr
  obtain ⟨d, hoff, hread, rfl⟩ := exec_dtdDecode_completed h herr
  exact ⟨hread.concatGives_byte hoff rfl 4 2, hread.concatGives_byte hoff rfl 4 3,
    hread.concatGives_byte hoff rfl 7 5, hread.concatGives_byte hoff rfl 7 6,
    hread.concatGives_byte hoff rfl 11 8, hread.concatGives_byte hoff rfl 11 9,
    hread.concatGives hoff rfl rfl 11 10, hread.concatGives hoff rfl rfl 11 10,
    hread.concatGives_byte hoff rfl 14 12, hread.concatGives_byte hoff rfl 14 13⟩

/-- Settles O44: both descriptors take the same branch, and a decode writes the same timing. -/
theorem dtdIgnoresBorderAndStereo : Obligations.DtdIgnoresBorderAndStereo := by
  intro s off d d' hread hbytes hbits m t hread' h
  by_cases hoff : off.toNat ≤ Config.lastDtdOffset
  · rw [exec_dtdDecode_of_read hoff hread] at h
    rw [exec_dtdDecode_of_read hoff hread', pixelClock_congr hbytes, syncTypeLegal_congr hbits,
      writeTiming_congr hbytes hbits]
    split_ifs at h ⊢ <;> cases h <;> rfl
  · rw [Nat.not_le] at hoff
    rw [exec_dtdDecode_of_outside hoff] at h ⊢
    cases h
    rfl

/-- Settles O46, one case per way the command ends. -/
theorem dtdFrame : Obligations.DtdFrame := by
  intro s off t h
  cases exec_effect h with
  | dtdDecodes => exact ⟨rfl, fun _ _ _ _ => rfl, fun _ => rfl⟩
  | dtdZeroClock => exact ⟨rfl, fun k h5 _ _ => by simp [Error.code, h5], fun _ => rfl⟩
  | dtdIllegalSync => exact ⟨rfl, fun k _ h6 _ => by simp [Error.code, h6], fun _ => rfl⟩
  | dtdOutOfRange => exact ⟨rfl, fun k _ _ h10 => by simp [Error.code, h10], fun _ => rfl⟩
  | bfxResult _ hi | bfxBreach _ hi => cases hi

/-- Settles O47, from the layout of the word of DTD_FLAGS. -/
theorem pixelRepetitionReadsZero : Obligations.PixelRepetitionReadsZero := by
  intro s w h
  obtain rfl : s.dtdFlags.word = w := Option.some.inj h
  obtain ⟨-, -, -, -, hprep, -⟩ := s.dtdFlags.word_layout
  exact hprep

end Sys2Proof.Machine

/-! The control family: NOP and CLRSTAT, the two commands that write STATUS alone. -/

namespace Sys2Proof.Machine

/-! ### STATUS and the control commands -/

section Control
variable {s t : State} {i : Instr} {k : Nat}

/-- Completing a command masks ERR out of the STATUS word (R16, R113). -/
theorem Status.completed_word (st : Status) : st.completed.word = st.word &&& 0xFFFFFFF0#32 :=
  st.word_and_maskErr.symm

theorem Status.word_zero : Status.word ⟨0, 0⟩ = 0 := by decide

theorem exec_nop (s : State) : exec .nop s = .next (complete s) := rfl

theorem exec_clrstat (s : State) : exec .clrstat s = .next { s with status := ⟨0, 0⟩ } := rfl

/-- A command other than CLRSTAT ends with `complete` or `raise`, and neither clears a STICKY bit (R17, R113). -/
theorem Effect.keeps_stickyBit (h : Effect s i t) (hne : i ≠ .clrstat) (hset : s.status.stickyBit k = true) :
    t.status.stickyBit k = true := by
  cases h with
  | clrstat => exact absurd rfl hne
  | nop | bfxResult | classify | svdParse | svdMark | dtdDecodes => exact hset
  | bfxBreach | classifyUnsupported | dtdOutOfRange | dtdZeroClock | dtdIllegalSync =>
    exact (Status.raised_stickyBit _ _ k).trans (Bool.or_eq_true_iff.mpr (.inr hset))

end Control

/-! ### The statements -/

/-- Settles O48: every bit of a NOP below its opcode is reserved, and the command is `complete`. -/
theorem nopOnlyClearsErr : Obligations.NopOnlyClearsErr := by
  obtain ⟨hword, -⟩ := encodedWordIsOrOfShiftedFields
  exact ⟨hword, fun w hopc hres =>
    raisesIllegalCommand_of_reservedFrom_le .nop hopc (Nat.one_le_iff_ne_zero.mpr hres),
    fun s => ⟨complete s, exec_nop s, rfl, s.status.completed_word⟩⟩

/-- Settles O49: CLRSTAT puts 0 in STATUS whatever stood there, and every other command keeps the STICKY bits. -/
theorem clrstatClearsStatus : Obligations.ClrstatClearsStatus := by
  obtain ⟨-, -, hword, -⟩ := encodedWordIsOrOfShiftedFields
  refine ⟨hword, fun w hopc hres =>
    raisesIllegalCommand_of_reservedFrom_le .clrstat hopc (Nat.one_le_iff_ne_zero.mpr hres),
    fun s => ⟨_, exec_clrstat s, rfl, Status.word_zero, exec_clrstat _⟩, fun i s t k h hset hclear => ?_⟩
  by_contra hne
  have hkept := (exec_effect h).keeps_stickyBit hne hset
  exact Bool.false_ne_true (hclear.symm.trans hkept)

end Sys2Proof.Machine

/-! The exceptions family: what each end of a command writes in STATUS, and when a command or a host access stops in the
model fault UnwrittenBuffer or in a refusal. -/

namespace Sys2Proof.Machine

/-! ### The ends of a command -/

/-- Settles O17: the CMD write of an illegal word is `raise` in every state. -/
theorem illegalWordRaisesIllegalCommand : Obligations.IllegalWordRaisesIllegalCommand := by
  intro s w hill
  exact ⟨_, raisesIllegalCommand_of_illegalWord hill s, rfl, rfl, fun k => Status.raised_stickyBit _ _ k⟩

/-- Settles O19, from the words of `completed` and `raised`: the codes listed are those of R18. -/
theorem raiseAndCompleteWriteStatus : Obligations.RaiseAndCompleteWriteStatus := by
  refine ⟨fun s => ⟨rfl, s.status.completed_word⟩, fun e c s hmem => ⟨rfl, ?_⟩⟩
  have hcode : c = e.code.toNat := by cases e <;> simpa [Error.code] using hmem
  rw [hcode]
  exact s.status.raised_word e

/-! ### Outcomes that depend on a list of BUF offsets being written -/

/-- The outcome is a next state while every listed byte is written, and UnwrittenBuffer while one is not (R122,
R124). -/
inductive Result.Needs (m : Memory) (reads : List Nat) : Result → Prop
  | answers (t : State) (hw : ∀ a ∈ reads, m.written a = true) : Needs m reads (.next t)
  | faults (a : Nat) (ha : a ∈ reads) (hu : m.written a = false) : Needs m reads (.fault .unwrittenBuffer)

section Needs
variable {m : Memory} {reads : List Nat} {r : Result}

theorem Memory.written_eq_false_iff {a : Nat} : m.written a = false ↔ m.read a = none := by
  rw [Memory.written, Option.isSome_eq_false_iff, Option.isNone_iff_eq_none]

theorem Memory.written_of_read {a : Nat} {b : Byte} (h : m.read a = some b) : m.written a = true := by
  rw [Memory.written, h, Option.isSome_some]

theorem Result.Needs.next_iff (h : Result.Needs m reads r) :
    (∃ t, r = .next t) ↔ ∀ a ∈ reads, m.written a = true := by
  cases h with
  | answers t hw => exact ⟨fun _ => hw, fun _ => ⟨t, rfl⟩⟩
  | faults a ha hu => exact ⟨fun ⟨_, ht⟩ => (nomatch ht), fun hw => absurd (hw a ha) (Bool.eq_false_iff.mp hu)⟩

theorem Result.Needs.fault_iff (h : Result.Needs m reads r) :
    r = .fault .unwrittenBuffer ↔ ∃ a ∈ reads, m.written a = false := by
  cases h with
  | answers t hw => exact ⟨nofun, fun ⟨a, ha, hu⟩ => absurd (hw a ha) (Bool.eq_false_iff.mp hu)⟩
  | faults a ha hu => exact ⟨fun _ => ⟨a, ha, hu⟩, fun _ => rfl⟩

theorem Result.Needs.ne_refused (h : Result.Needs m reads r) (f : Refusal) : r ≠ .refused f := by
  cases h <;> nofun

theorem needs_nil_next (m : Memory) (t : State) : Result.Needs m [] (.next t) := .answers t nofun

/-- A written byte may be added to what an outcome needs. -/
theorem Result.Needs.cons {a : Nat} (h : Result.Needs m reads r) (ha : m.written a = true) :
    Result.Needs m (a :: reads) r := by
  cases h with
  | answers t hw => exact .answers t (List.forall_mem_cons.mpr ⟨ha, hw⟩)
  | faults x hx hu => exact .faults x (List.mem_cons_of_mem a hx) hu

variable {s : State}

/-- Reading one byte and going on needs that byte and those of the rest. -/
theorem withByte_needs {a : Nat} {k : Byte → Result} (hk : ∀ b, Result.Needs s.buf reads (k b)) :
    Result.Needs s.buf (a :: reads) (withByte s a k) := by
  cases hb : s.buf.read a with
  | none =>
    rw [withByte_of_unwritten hb]
    exact .faults a List.mem_cons_self (Memory.written_eq_false_iff.mpr hb)
  | some b =>
    rw [withByte_of_read hb]
    exact (hk b).cons (Memory.written_of_read hb)

/-- Reading a descriptor and answering needs its 18 bytes (R87). -/
theorem withDescriptor_needs {off : Nat} {k : (Fin 18 → Byte) → Result} (hk : ∀ d, ∃ t, k d = .next t) :
    Result.Needs s.buf ((List.range Config.dtdBytes).map (off + ·)) (withDescriptor s off k) := by
  by_cases hw : ∀ i : Fin 18, s.buf.written (off + i.val) = true
  · obtain ⟨t, ht⟩ := hk fun i => (s.buf.read (off + i.val)).get (hw i)
    rw [withDescriptor_of_read fun i => (Option.some_get (hw i)).symm, ht]
    exact .answers t (List.forall_mem_map.mpr fun j hj => hw ⟨j, List.mem_range.mp hj⟩)
  · obtain ⟨i, hi⟩ := not_forall.mp hw
    have hu := Bool.eq_false_iff.mpr hi
    rw [withDescriptor_of_unwritten i (Memory.written_eq_false_iff.mp hu)]
    exact .faults _ (List.mem_map_of_mem (List.mem_range.mpr i.isLt)) hu

end Needs

/-! ### Commands -/

section Commands
variable (s : State)

theorem exec_extract_needs (off : Offset) (shift : BitVec 3) (width : BitVec 4) :
    Result.Needs s.buf (commandReads (.extract off shift width)) (exec (.extract off shift width) s) := by
  cases hlegal : fieldLegal shift width with
  | false =>
    rw [exec_extract_of_breach hlegal, commandReads, hlegal]
    exact needs_nil_next _ _
  | true =>
    rw [exec_extract_of_legal hlegal, commandReads, if_pos hlegal]
    exact withByte_needs fun _ => needs_nil_next _ _

theorem exec_concat_needs (hoff : Offset) (hs : BitVec 3) (hw : BitVec 4) (loff : Offset) (ls : BitVec 3)
    (lw : BitVec 4) :
    Result.Needs s.buf (commandReads (.concat hoff hs hw loff ls lw)) (exec (.concat hoff hs hw loff ls lw) s) := by
  by_cases hlegal : fieldLegal hs hw = true ∧ fieldLegal ls lw = true
  · rw [exec_concat_of_legal hlegal.1 hlegal.2, commandReads, if_pos (Bool.and_eq_true_iff.mpr hlegal)]
    exact withByte_needs fun _ => withByte_needs fun _ => needs_nil_next _ _
  · have hbreach : fieldLegal hs hw = false ∨ fieldLegal ls lw = false := by
      simpa only [not_and_or, Bool.not_eq_true] using hlegal
    rw [exec_concat_of_breach hbreach, commandReads, if_neg (mt Bool.and_eq_true_iff.mp hlegal)]
    exact needs_nil_next _ _

theorem exec_classify_needs : Result.Needs s.buf (commandReads .classify) (exec .classify s) := by
  refine withByte_needs fun tag => ?_
  dsimp only
  split <;> exact needs_nil_next _ _

theorem exec_dtdDecode_needs (off : Offset) :
    Result.Needs s.buf (commandReads (.dtdDecode off)) (exec (.dtdDecode off) s) := by
  by_cases hoff : off.toNat ≤ Config.lastDtdOffset
  · rw [commandReads, if_pos hoff, exec, execDtdDecode, if_neg (Nat.not_lt.mpr hoff)]
    refine withDescriptor_needs fun d => ?_
    split_ifs <;> exact ⟨_, rfl⟩
  · rw [commandReads, if_neg hoff, exec_dtdDecode_of_outside (Nat.not_le.mp hoff)]
    exact needs_nil_next _ _

/-- A command needs the bytes `commandReads` lists, and nothing else can stop it (R122, R124). -/
theorem exec_needs (i : Instr) : Result.Needs s.buf (commandReads i) (exec i s) := by
  cases i with
  | nop | svdMark | clrstat => exact needs_nil_next _ _
  | extract => exact exec_extract_needs ..
  | concat => exact exec_concat_needs ..
  | word => exact withByte_needs fun _ => withByte_needs fun _ => needs_nil_next _ _
  | dword =>
    exact withByte_needs fun _ => withByte_needs fun _ => withByte_needs fun _ => withByte_needs fun _ =>
      needs_nil_next _ _
  | classify => exact exec_classify_needs s
  | svdParse => exact withByte_needs fun _ => needs_nil_next _ _
  | dtdDecode => exact exec_dtdDecode_needs ..

/-- A command word runs a command, which is never refused, or raises IllegalCommand. -/
theorem runCommandWord_ne_refused (w : Word) (f : Refusal) : runCommandWord w s ≠ .refused f := by
  unfold runCommandWord
  split
  · exact (exec_needs _ _).ne_refused f
  · nofun

end Commands

/-- Settles O21: a command needs exactly the bytes it reads. -/
theorem commandCompletesExactlyWhenItsBytesAreWritten : Obligations.CommandCompletesExactlyWhenItsBytesAreWritten :=
  fun i s => ⟨(exec_needs s i).next_iff, (exec_needs s i).ne_refused⟩

/-! ### Host accesses -/

section HostAccesses
variable {s : State} {o : HostOffset} {width : AccessWidth}

/-- R13's bound as R37 writes it. -/
theorem lt_bufBytes_iff {a : Nat} : a < Config.bufBytes ↔ a ≤ 0x7F := Nat.lt_succ_iff

theorem hostRead_bits8_needs (ho : o.toNat < Config.bufBytes) :
    Result.Needs s.buf [o.toNat] (hostRead .bits8 o s) := by
  rw [hostRead_bits8 ho]
  exact withByte_needs fun _ => needs_nil_next _ _

theorem hostRead_bits32_needs (ho : o.toNat < Config.bufBytes) (hmod : o.toNat % 4 = 0) :
    Result.Needs s.buf ((List.range 4).map (o.toNat + ·)) (hostRead .bits32 o s) := by
  rw [hostRead_bits32_buf ho hmod]
  exact withByte_needs fun _ => withByte_needs fun _ => withByte_needs fun _ => withByte_needs fun _ =>
    needs_nil_next _ _

/-- The register map ends at 0xAC (R35). -/
theorem registerWord_offset_le {w : Word} (h : registerWord s o = some w) : o.toNat ≤ 0xAC := by
  unfold registerWord at h
  split at h
  case h_13 => cases h
  all_goals simp only [*]; decide

theorem hostRead_of_not_admitted (h : admitted (.read width o) = false) : hostRead width o s = refuseAccess := by
  cases width with
  | bits8 => exact if_neg (mt lt_bufBytes_iff.mp (of_decide_eq_false h))
  | bits16 => rfl
  | bits32 =>
    simp only [admitted, Bool.and_eq_false_iff, decide_eq_false_iff_not] at h
    obtain hmod | ho := h
    · exact if_pos hmod
    · have hnone : registerWord s o = none := Option.eq_none_iff_forall_ne_some.mpr fun w hw =>
        ho (registerWord_offset_le hw)
      have hbuf : ¬ o.toNat < Config.bufBytes := by rw [lt_bufBytes_iff]; omega
      simp only [hostRead, hbuf, hnone, if_false, ite_self]

theorem hostRead_ne_refused (h : admitted (.read width o) = true) (f : Refusal) :
    hostRead width o s ≠ .refused f := by
  cases width with
  | bits8 => exact (hostRead_bits8_needs (lt_bufBytes_iff.mpr (of_decide_eq_true h))).ne_refused f
  | bits16 => cases h
  | bits32 =>
    simp only [admitted, Bool.and_eq_true, decide_eq_true_eq] at h
    obtain ⟨hmod, ho⟩ := h
    by_cases hbuf : o.toNat < Config.bufBytes
    · exact (hostRead_bits32_needs hbuf hmod).ne_refused f
    · obtain ⟨w, hw⟩ := registerWord_of_offset s (Nat.not_lt.mp hbuf) ho hmod
      rw [(readsAs_of_registerWord hw).2]
      nofun

variable {v : Word}

theorem hostWrite_of_not_admitted (h : admitted (.write width o v) = false) :
    hostWrite width o v s = refuseAccess := by
  cases width with
  | bits8 => exact if_neg (mt lt_bufBytes_iff.mp (of_decide_eq_false h))
  | bits16 => rfl
  | bits32 =>
    simp only [admitted, Bool.or_eq_false_iff, Bool.and_eq_false_iff, decide_eq_false_iff_not] at h
    obtain ⟨hword, hcmd⟩ := h
    have hne : o ≠ Config.cmdOffset := fun heq => hcmd (congrArg BitVec.toNat heq)
    by_cases hmod : o.toNat % 4 = 0
    · have hbuf : ¬ o.toNat < Config.bufBytes := by rw [lt_bufBytes_iff]; omega
      simp only [hostWrite, hbuf, hne, if_false, ite_self]
    · exact if_pos hmod

theorem hostWrite_ne_refused (h : admitted (.write width o v) = true) (f : Refusal) :
    hostWrite width o v s ≠ .refused f := by
  cases width with
  | bits8 =>
    rw [hostWrite_bits8 (lt_bufBytes_iff.mpr (of_decide_eq_true h))]
    nofun
  | bits16 => cases h
  | bits32 =>
    simp only [admitted, Bool.or_eq_true, Bool.and_eq_true, decide_eq_true_eq] at h
    obtain ⟨hmod, ho⟩ | hcmd := h
    · rw [hostWrite_bits32_buf (by rw [lt_bufBytes_iff]; omega) hmod]
      nofun
    · rw [show o = Config.cmdOffset from BitVec.eq_of_toNat_eq hcmd, hostWrite_cmd]
      exact runCommandWord_ne_refused s v f

end HostAccesses

/-- Settles O22: a command and a host read of BUF each need exactly the bytes they read. -/
theorem unwrittenBufferFaultsExactlyOnUnwrittenReads : Obligations.UnwrittenBufferFaultsExactlyOnUnwrittenReads := by
  refine ⟨fun i s => (exec_needs s i).fault_iff, fun o s ho => ?_, fun o s ho hmod => ?_⟩
  · rw [(hostRead_bits8_needs (lt_bufBytes_iff.mpr ho)).fault_iff]
    simp only [List.mem_singleton, exists_eq_left]
  · rw [(hostRead_bits32_needs (by rw [lt_bufBytes_iff]; omega) hmod).fault_iff]
    simp only [List.mem_map, List.mem_range, exists_exists_and_eq_and]

/-- Settles O54, for reads and writes apart. -/
theorem accessesOutsideTheInterfaceAreRefused : Obligations.AccessesOutsideTheInterfaceAreRefused := by
  intro a s
  cases a with
  | read => exact ⟨hostRead_of_not_admitted, hostRead_ne_refused⟩
  | write => exact ⟨hostWrite_of_not_admitted, hostWrite_ne_refused⟩

end Sys2Proof.Machine

/-! The reset family: the state the reset input leaves, and the writes to BUF, which reach no register. -/

namespace Sys2Proof.Machine

/-! ### The state after reset -/

section Reset
variable {s r : State} {o : HostOffset} {w : Word}

/-- `State.reset` is itself the hardware reset of a state, so what holds after every hardware reset holds in it. -/
theorem hardwareReset_reset : hardwareReset State.reset = State.reset := rfl

theorem exists_eq_hardwareReset (h : r = State.reset ∨ r = hardwareReset s) : ∃ q, r = hardwareReset q := by
  obtain rfl | rfl := h
  · exact ⟨State.reset, hardwareReset_reset.symm⟩
  · exact ⟨s, rfl⟩

theorem hardwareReset_idempotent (s : State) : hardwareReset (hardwareReset s) = hardwareReset s := rfl

theorem registerWord_hardwareReset_eq_reset (s : State) (o : HostOffset) :
    registerWord (hardwareReset s) o = registerWord State.reset o := rfl

/-- Each register of the map holds 0 after reset (R125). -/
theorem eq_zero_of_registerWord_reset (h : registerWord State.reset o = some w) : w = 0 := by
  unfold registerWord at h
  split at h
  case h_13 => cases h
  all_goals
    cases h
    decide

theorem registerWord_hardwareReset (s : State) (hlo : 0x80 ≤ o.toNat) (hhi : o.toNat ≤ 0xAC)
    (hmod : o.toNat % 4 = 0) : registerWord (hardwareReset s) o = some 0 := by
  obtain ⟨w, hw⟩ := registerWord_of_offset State.reset hlo hhi hmod
  rw [registerWord_hardwareReset_eq_reset, hw, eq_zero_of_registerWord_reset hw]

theorem hardwareReset_stickyBit (s : State) (k : Nat) : (hardwareReset s).status.stickyBit k = false :=
  Status.stickyCleared_stickyBit ⟨0, 0⟩ k

theorem hardwareReset_written (s : State) (a : Nat) : (hardwareReset s).buf.written a = false :=
  Memory.written_eq_false_iff.mpr (Memory.read_nil a)

end Reset

/-- Settles O3: a register's word after reset is 0, and a host read answers that word. -/
theorem resetIsIdempotent : Obligations.ResetIsIdempotent := fun s =>
  ⟨hardwareReset_idempotent s, fun _ hlo hhi hmod =>
    (readsAs_of_registerWord (registerWord_hardwareReset s hlo hhi hmod)).2⟩

/-- Settles O1: the words by the register map, the fields by the record the reset writes. -/
theorem registersReadZeroAfterReset : Obligations.RegistersReadZeroAfterReset := by
  intro s r hr
  obtain ⟨q, rfl⟩ := exists_eq_hardwareReset hr
  exact ⟨fun _ => registerWord_hardwareReset q, rfl, hardwareReset_stickyBit q, rfl, rfl, rfl, rfl, rfl, rfl, rfl, rfl,
    rfl⟩

/-- Settles O2: an 8-bit host read of BUF needs its byte written, and no byte is written after reset. -/
theorem bufIsUnwrittenAfterReset : Obligations.BufIsUnwrittenAfterReset := by
  intro s r hr
  obtain ⟨q, rfl⟩ := exists_eq_hardwareReset hr
  refine ⟨hardwareReset_written q, fun o ho => ?_⟩
  rw [(hostRead_bits8_needs (lt_bufBytes_iff.mpr ho)).fault_iff]
  exact ⟨o.toNat, List.mem_singleton_self _, hardwareReset_written q o.toNat⟩

/-! ### Writes to BUF -/

section BufferWrites
variable {s t : State} {o : HostOffset} {width : AccessWidth} {v : Word}

/-- No register's word depends on BUF. -/
theorem registerWord_with_buf (s : State) (m : Memory) (o : HostOffset) :
    registerWord { s with buf := m } o = registerWord s o := rfl

/-- A host write at a BUF offset is no CMD write: it runs no command and changes BUF alone (R38, R40). -/
theorem hostWrite_buf_next (ho : o.toNat < Config.bufBytes) (h : hostWrite width o v s = .next t) :
    ∃ m, t = { s with buf := m } := by
  obtain ⟨-, ht⟩ | ⟨-, ht⟩ | ⟨-, rfl, -⟩ := hostWrite_next h
  · exact ⟨_, ht⟩
  · exact ⟨_, ht⟩
  · exact absurd ho (by decide)

end BufferWrites

/-- Settles O59. -/
theorem bufferWritesKeepEveryRegister : Obligations.BufferWritesKeepEveryRegister := by
  intro s o v ho
  have hbuf := lt_bufBytes_iff.mpr ho
  refine ⟨⟨_, hostWrite_bits8 hbuf v⟩, fun hmod => ⟨_, hostWrite_bits32_buf hbuf hmod v⟩, fun width t h => ?_⟩
  obtain ⟨m, rfl⟩ := hostWrite_buf_next hbuf h
  exact ⟨rfl, registerWord_with_buf s m⟩

end Sys2Proof.Machine

/-! The opcode table: under a row's mask a word is the row's match exactly when it decodes to the row's command. -/

namespace Sys2Proof

/-! ### Masks and matches -/

/-- The mask of a command's row of spec/opcode_table.json. -/
def Instr.rowMask : Instr → Word
  | .nop | .classify | .clrstat => 0xFFFFFFFF#32
  | .extract _ _ _ | .word _ _ => 0xFFFFC000#32
  | .concat _ _ _ _ _ _ | .dword _ _ _ _ => 0xF0000000#32
  | .svdParse _ | .dtdDecode _ => 0xFFFFFF80#32
  | .svdMark _ _ => 0xFFFFFF00#32

/-- The match of a command's row of spec/opcode_table.json. -/
def Instr.rowMatch : Instr → Word
  | .nop => 0x00000000#32
  | .extract _ _ _ => 0x10000000#32
  | .concat _ _ _ _ _ _ => 0x20000000#32
  | .word _ _ => 0x30000000#32
  | .dword _ _ _ _ => 0x40000000#32
  | .classify => 0x50000000#32
  | .svdParse _ => 0x60000000#32
  | .svdMark _ _ => 0x70000000#32
  | .dtdDecode _ => 0x80000000#32
  | .clrstat => 0xF0000000#32

/-- The mask holds the opcode and the reserved bits of the command's format (R49). -/
theorem Instr.rowMask_eq_shiftLeft (i : Instr) : i.rowMask = BitVec.allOnes 32 <<< i.reservedFrom := by
  cases i <;> simp only [Instr.rowMask, Instr.reservedFrom] <;> decide

/-- The match is the opcode above zeros (R50). -/
theorem Instr.rowMatch_toNat (i : Instr) : i.rowMatch.toNat = i.opcode.toNat * 2 ^ 28 := by
  cases i <;> simp only [Instr.rowMatch, Instr.opcode] <;> decide

section Rows
variable {w : Word} {i : Instr}

/-- A word under the mask as a number: its digits from the lowest reserved bit up. -/
theorem and_rowMask_toNat (w : Word) (i : Instr) :
    (w &&& i.rowMask).toNat = w.toNat / 2 ^ i.reservedFrom * 2 ^ i.reservedFrom := by
  have hle : w.toNat / 2 ^ i.reservedFrom * 2 ^ i.reservedFrom < 2 ^ 32 :=
    (Nat.div_mul_le_self _ _).trans_lt w.isLt
  rw [i.rowMask_eq_shiftLeft, ← BitVec.shiftLeft_ushiftRight, BitVec.toNat_shiftLeft, BitVec.toNat_ushiftRight,
    Nat.shiftLeft_eq, Nat.shiftRight_eq_div_pow, Nat.mod_eq_of_lt hle]

/-- A row compares the opcode and the reserved bits, the latter with 0. -/
theorem and_rowMask_eq_rowMatch_iff :
    w &&& i.rowMask = i.rowMatch ↔ opcField w = i.opcode ∧ i.reservedOf w = 0 := by
  rw [reservedOf_eq_zero_iff, ← BitVec.toNat_inj, ← BitVec.toNat_inj, opcField_toNat_eq_div, i.rowMatch_toNat,
    and_rowMask_toNat]
  cases i <;> simp only [Instr.reservedFrom] <;> omega

theorem and_rowMask_of_decode (h : decode w = .command i) : w &&& i.rowMask = i.rowMatch := by
  obtain rfl := encodeOfDecodeIsTheWord w i h
  exact and_rowMask_eq_rowMatch_iff.mpr ⟨opcField_encode i, reservedOf_encode i⟩

theorem decode_of_and_rowMask (h : w &&& i.rowMask = i.rowMatch) : decode w = .command (i.withFieldsOf w) := by
  obtain ⟨hop, hres⟩ := and_rowMask_eq_rowMatch_iff.mp h
  rw [decode_of_opcField hop, unlessReserved_eq_command]
  exact ⟨hres, rfl⟩

end Rows

/-- Settles O13. Row by row: a masked word that matches decodes to the row's command with the word's own fields, and a
word that decodes to a command matches the row of that command. -/
theorem decoderMatchesTheOpcodeTable : Obligations.DecoderMatchesTheOpcodeTable := by
  intro w
  exact ⟨
    ⟨fun h => decode_of_and_rowMask (i := .nop) h, and_rowMask_of_decode⟩,
    ⟨fun h => ⟨_, _, _, decode_of_and_rowMask (i := .extract 0 0 0) h⟩,
      fun ⟨_, _, _, h⟩ => and_rowMask_of_decode h⟩,
    ⟨fun h => ⟨_, _, _, _, _, _, decode_of_and_rowMask (i := .concat 0 0 0 0 0 0) h⟩,
      fun ⟨_, _, _, _, _, _, h⟩ => and_rowMask_of_decode h⟩,
    ⟨fun h => ⟨_, _, decode_of_and_rowMask (i := .word 0 0) h⟩, fun ⟨_, _, h⟩ => and_rowMask_of_decode h⟩,
    ⟨fun h => ⟨_, _, _, _, decode_of_and_rowMask (i := .dword 0 0 0 0) h⟩,
      fun ⟨_, _, _, _, h⟩ => and_rowMask_of_decode h⟩,
    ⟨fun h => decode_of_and_rowMask (i := .classify) h, and_rowMask_of_decode⟩,
    ⟨fun h => ⟨_, decode_of_and_rowMask (i := .svdParse 0) h⟩, fun ⟨_, h⟩ => and_rowMask_of_decode h⟩,
    ⟨fun h => ⟨_, _, decode_of_and_rowMask (i := .svdMark .lim420 0) h⟩, fun ⟨_, _, h⟩ => and_rowMask_of_decode h⟩,
    ⟨fun h => ⟨_, decode_of_and_rowMask (i := .dtdDecode 0) h⟩, fun ⟨_, h⟩ => and_rowMask_of_decode h⟩,
    ⟨fun h => decode_of_and_rowMask (i := .clrstat) h, and_rowMask_of_decode⟩⟩

end Sys2Proof

/-! The step: what one event does, the STATUS after a step, and the steps that set or clear a STICKY bit. -/

namespace Sys2Proof.Machine

/-! ### One event -/

section Events
variable {s : State} {e : HostEvent} {rest : List HostEvent} {w : Word}

theorem step_of_pending (h : s.pending = e :: rest) : step s = perform e { s with pending := rest } := by
  rw [step, advance, h]

theorem step_of_no_pending (h : s.pending = []) : step s = .next s := by
  rw [step, advance, h]

theorem runCommandWord_of_command {i : Instr} (h : decode w = .command i) :
    runCommandWord w s = exec i { s with cmd := w } := by
  rw [runCommandWord, h]

theorem runCommandWord_of_illegal {why : IllegalWord} (h : decode w = .illegal why) :
    runCommandWord w s = .next (raise .illegalCommand { s with cmd := w }) := by
  rw [runCommandWord, h]

end Events

/-- Settles O60. -/
theorem waitingChangesNothing : Obligations.WaitingChangesNothing := fun _ => step_of_no_pending

/-- Settles O4: the event is performed by the hardware reset. -/
theorem resetEventResetsInOneStep : Obligations.ResetEventResetsInOneStep := fun _ _ => step_of_pending

/-- Settles O16: the event is performed; a CMD write is performed by running the word as it decodes. -/
theorem stepRunsTheDecodedCommand : Obligations.StepRunsTheDecodedCommand := by
  refine fun s rest => ⟨fun w i hp hd => ?_, fun w why hp hd => ?_, fun _ _ => step_of_pending,
    fun _ _ _ => step_of_pending, fun _ => step_of_pending⟩
  · exact (step_of_pending hp).trans (runCommandWord_of_command hd)
  · exact (step_of_pending hp).trans (runCommandWord_of_illegal hd)

/-- Settles O5: the reset state is a hardware reset, which leaves the invariant whatever stood before. -/
theorem resetMeetsTheInvariant : Obligations.ResetMeetsTheInvariant := by
  rw [Obligations.ResetMeetsTheInvariant, ← hardwareReset_reset]
  exact hardwareReset_inv (by decide)

/-! ### STATUS after a step -/

section StickyBits
variable {s t : State} {i : Instr} {k : Nat}

/-- The three ways a command leaves STATUS (R107, R113). -/
theorem Effect.status_cases (h : Effect s i t) :
    t.status = s.status.completed ∨ (∃ e, t.status = s.status.raised e) ∨ (i = .clrstat ∧ t.status = ⟨0, 0⟩) := by
  cases h with
  | nop | bfxResult | classify | svdParse | svdMark | dtdDecodes => exact .inl rfl
  | bfxBreach | classifyUnsupported | dtdOutOfRange | dtdZeroClock | dtdIllegalSync => exact .inr (.inl ⟨_, rfl⟩)
  | clrstat => exact .inr (.inr ⟨rfl, rfl⟩)

/-- The ways a step leaves STATUS: as it was, cleared by reset, or as a CMD write ends, with no error, with an error
raised, or cleared by the word of CLRSTAT. -/
theorem step_status_cases (h : step s = .next t) :
    t.status = s.status ∨
    (∃ rest, s.pending = .reset :: rest ∧ t.status = ⟨0, 0⟩) ∨
    ∃ w rest, s.pending = cmdWrite w :: rest ∧
      (t.status = s.status.completed ∨ (∃ e, t.status = s.status.raised e) ∨
        (w = encode .clrstat ∧ t.status = ⟨0, 0⟩)) := by
  obtain ⟨-, rfl⟩ | ⟨rest, ⟨hp, rfl⟩ | ⟨_, _, _, -, rfl⟩ | ⟨_, _, _, -, -, rfl⟩ | ⟨_, _, _, -, -, rfl⟩ |
    ⟨w, i, hp, hd, hx⟩ | ⟨w, why, hp, -, rfl⟩⟩ := step_cases h
  · exact .inl rfl
  · exact .inr (.inl ⟨rest, hp, rfl⟩)
  · exact .inl rfl
  · exact .inl rfl
  · exact .inl rfl
  · refine .inr (.inr ⟨w, rest, hp, (exec_effect hx).status_cases.imp_right (.imp_right fun ⟨hi, ht⟩ => ⟨?_, ht⟩)⟩)
    rw [← hi, encodeOfDecodeIsTheWord w i hd]
  · exact .inr (.inr ⟨w, rest, hp, .inr (.inl ⟨_, rfl⟩)⟩)

theorem stickyBit_of_status_zero (ht : t.status = ⟨0, 0⟩) : t.status.stickyBit k = false :=
  ht ▸ Status.stickyCleared_stickyBit ⟨0, 0⟩ k

/-- The bit that raising an error sets is the one of the code then in ERR (R17). -/
theorem Status.raised_err_of_stickyBit {st : Status} {e : Error} (hclear : st.stickyBit k = false)
    (hset : (st.raised e).stickyBit k = true) : (st.raised e).err.toNat = k := by
  rw [Status.raised_stickyBit, hclear, Bool.or_false, decide_eq_true_eq] at hset
  exact hset.symm

/-- Only a CMD write that raises sets a STICKY bit, and it is that of the error (R17). -/
theorem step_sets_stickyBit (h : step s = .next t) (hclear : s.status.stickyBit k = false)
    (hset : t.status.stickyBit k = true) :
    (∃ w rest, s.pending = cmdWrite w :: rest) ∧ t.status.err.toNat = k := by
  obtain ht | ⟨_, -, ht⟩ | ⟨w, rest, hp, ht | ⟨e, ht⟩ | ⟨-, ht⟩⟩ := step_status_cases h
  · simp [ht, hclear] at hset
  · simp [stickyBit_of_status_zero ht] at hset
  · simp [ht, hclear] at hset
  · rw [ht] at hset ⊢
    exact ⟨⟨w, rest, hp⟩, Status.raised_err_of_stickyBit hclear hset⟩
  · simp [stickyBit_of_status_zero ht] at hset

/-- Only reset and the CMD write of CLRSTAT clear a STICKY bit (R17). -/
theorem step_clears_stickyBit (h : step s = .next t) (hset : s.status.stickyBit k = true)
    (hclear : t.status.stickyBit k = false) :
    ∃ rest, s.pending = .reset :: rest ∨ s.pending = cmdWrite (encode .clrstat) :: rest := by
  obtain ht | ⟨rest, hp, -⟩ | ⟨w, rest, hp, ht | ⟨e, ht⟩ | ⟨rfl, -⟩⟩ := step_status_cases h
  · simp [ht, hset] at hclear
  · exact ⟨rest, .inl hp⟩
  · simp [ht, hset] at hclear
  · simp [ht, hset] at hclear
  · exact ⟨rest, .inr hp⟩

end StickyBits

/-- Settles O20. -/
theorem stickyBitsAreSetByRaiseAndClearedByClrstatOrReset :
    Obligations.StickyBitsAreSetByRaiseAndClearedByClrstatOrReset :=
  fun _ _ _ h => ⟨step_sets_stickyBit h, step_clears_stickyBit h⟩

end Sys2Proof.Machine

/-! The results that depend on one byte: the class of a tag under two known sets, and the record of an SVD byte. -/

namespace Sys2Proof.Machine

/-! ### CLASSIFY and the known set -/

section KnownTags
variable {s t : State} {known known' : List Byte} {tag : Byte}

/-- A base block and a CTA-861 block are classified before the known set is asked (R77, R80). -/
theorem classOf_eq_of_fixed_tag (h : tag = 0x00#8 ∨ tag = 0x02#8) : classOf known tag = classOf known' tag := by
  obtain rfl | rfl := h <;> rfl

theorem classOf_of_extension (hbase : tag ≠ 0x00#8) (hcta : tag ≠ 0x02#8) :
    classOf known tag = .otherKnown ∨ classOf known tag = .unsupported := by
  rw [classOf, if_neg hbase, if_neg hcta]
  split
  · exact .inl rfl
  · exact .inr rfl

theorem exec_classify_next (h : exec .classify s = .next t) :
    ∃ tag, s.buf.read 0 = some tag ∧ t = { s with
      clsRes := ⟨classOf s.knownExtTags tag, tag, true⟩
      status := if classOf s.knownExtTags tag = .unsupported then s.status.raised .unsupportedBlock
        else s.status.completed } := by
  obtain ⟨tag, hread, -⟩ := withByte_next h
  rw [exec_classify_of_read hread, Host.Outcome.next.injEq] at h
  exact ⟨tag, hread, h.symm⟩

end KnownTags

/-- Settles O36: both runs read the same tag, so only its class under the two sets can differ. -/
theorem knownTagSetDecidesOnlyClassTwoOrThree : Obligations.KnownTagSetDecidesOnlyClassTwoOrThree := by
  refine ⟨fun s known t t' h h' => ?_, fun tag => ?_⟩
  · obtain ⟨tag, hread, rfl⟩ := exec_classify_next h
    rw [exec_classify_of_read (s := { s with knownExtTags := known }) hread, Host.Outcome.next.injEq] at h'
    subst h'
    refine ⟨rfl, fun hfixed => ?_, classOf_of_extension⟩
    simp only [classOf_eq_of_fixed_tag (known := known) (known' := s.knownExtTags) hfixed, and_self]
  · have hmem : tag ∈ Config.defaultKnownExtTags ↔
        tag.toNat = 0x10 ∨ tag.toNat = 0x40 ∨ tag.toNat = 0x50 ∨ tag.toNat = 0x60 := by
      simp [Config.defaultKnownExtTags, ← BitVec.toNat_inj]
    simp only [classOf_code_toNat, hmem]

/-! ### SVD_PARSE -/

section ParseSvd
variable (b : Byte)

theorem parseSvd_code_toNat : (parseSvd b).code.toNat = b.toNat % 128 := by
  rw [parseSvd, BitVec.extractLsb'_toNat, Nat.shiftRight_zero]

theorem parseSvd_native : (parseSvd b).native = decide (128 ≤ b.toNat) :=
  b.msb_eq_getLsbD_last.symm.trans b.msb_eq_decide

theorem parseSvd_native_toNat : (parseSvd b).native.toNat = b.toNat / 2 ^ 7 % 2 := Nat.toNat_testBit _ _

/-- The word of the record is the byte with VALID set: CODE and NATIVE keep their places (R22, R82). -/
theorem parseSvd_word : (parseSvd b).word = 0x80000000#32 ||| b.setWidth 32 := by
  have hvalid : 0x80000000#32 = SvdRes.word ⟨0, false, false, false, true⟩ := by decide
  have hbyte : b.setWidth 32 = SvdRes.word ⟨(parseSvd b).code, (parseSvd b).native, false, false, false⟩ := by
    apply BitVec.eq_of_toNat_eq
    have hlt := b.isLt
    simp only [SvdRes.word, Laws.Encoding.toNat_append_add, BitVec.toNat_setWidth, BitVec.toNat_ofBool,
      BitVec.toNat_ofNat, Bool.toNat_false, parseSvd_code_toNat, parseSvd_native_toNat]
    omega
  rw [hvalid, hbyte, SvdRes.word_or_word]
  simp [parseSvd]

end ParseSvd

theorem exec_svdParse_of_read {s : State} {off : Offset} {b : Byte} (h : s.buf.read off.toNat = some b) :
    exec (.svdParse off) s = .next (complete { s with svdRes := parseSvd b }) := withByte_of_read h

/-- Settles O37. -/
theorem svdParseWritesTheWholeRecord : Obligations.SvdParseWritesTheWholeRecord := by
  intro off
  obtain ⟨-, -, -, -, -, -, -, hword, -⟩ := encodedWordIsOrOfShiftedFields
  refine ⟨hword off, fun w hopc hres => ?_, fun s b hread => ⟨_, exec_svdParse_of_read hread, rfl,
    parseSvd_code_toNat b, parseSvd_native b, rfl, rfl, rfl, parseSvd_word b⟩⟩
  have hset : 2 ^ 7 ≤ w.toNat % 2 ^ 28 := by omega
  exact raisesIllegalCommand_of_reservedFrom_le (.svdParse off) hopc hset

end Sys2Proof.Machine
